-- ==== Sys2Proof/Word.lean ====
section
/-! DEFINITION. The words of GFCORE and the numbers that name its registers. -/

namespace Sys2Proof

/-- A byte, which is also "a field element" and "a symbol" (00_scope.md R8). -/
abbrev Byte := BitVec 8

/-- A 32-bit word: a command word, a scalar register, a control register, a response's data (R20, R31, R81, R92). -/
abbrev Word := BitVec 32

/-- The number of a scalar register, `x0` to `x15` (10_state.md R20). -/
abbrev XReg := Fin 16

/-- The number of a vector register, `v0` to `v7` (10_state.md R24). -/
abbrev VReg := Fin 8

end Sys2Proof
end

