-- ==== Sys2Proof/Syntax.lean ====
section
/-! DEFINITION. The instruction set: one constructor for each of the 43 rows of 30_encoding.md R84, its operands in
the order of that table (assembler order, R89).

A scalar register operand is a number 0..15, a vector register operand a number 0..7 (R82).
A CSR number, a table selector, an LFSR bit count and a pushed byte are the 8-bit immediate as it stands (R85). -/

namespace Sys2Proof

/-- The commands of GFCORE (30_encoding.md R84). -/
inductive Instr where
  -- system and scalar move (40_system_and_move.md)
  | nop
  | init
  | csrr (rd : XReg) (csr : Byte)
  | csrw (csr : Byte) (rs : XReg)
  | rd (rs : XReg)
  | li (rd : XReg) (imm16 : BitVec 16)
  | lih (rd : XReg) (imm16 : BitVec 16)
  | mov (rd rs : XReg)
  | tblrd (rd : XReg) (sel : Byte) (rs : XReg)
  -- field arithmetic (41_gf_arithmetic.md)
  | gfadd (rd rs rt : XReg)
  | gfmul (rd rs rt : XReg)
  | gfinv (rd rs : XReg)
  | gfpow (rd rs rt : XReg)
  | gfdiv (rd rs rt : XReg)
  -- vector register moves (42_vector_move.md)
  | vclr (vd : VReg)
  | vpushi (vd : VReg) (imm8 : Byte)
  | vpush (vd : VReg) (rs : XReg)
  | vget (rd : XReg) (vs : VReg) (rt : XReg)
  | vlen (rd : XReg) (vs : VReg)
  | vmov (vd vs : VReg)
  | vrev (vd vs : VReg)
  | vset (vd : VReg) (rs rt : XReg)
  -- polynomials (43_polynomial.md)
  | peval (rd : XReg) (vs : VReg) (rt : XReg)
  | pmul (vd vs vt : VReg)
  | pdivmod (vq vr vs vt : VReg)
  | ptrim (vd vs : VReg)
  -- Reed-Solomon encoder (44_rs_encode.md)
  | rsgen (vd : VReg) (rt : XReg)
  | rsenc (vd vs : VReg) (rt : XReg)
  -- Reed-Solomon decoder (45_rs_decode.md)
  | rssyn (vd vs : VReg) (rt : XReg)
  | rsloc (vd vs : VReg) (rc : XReg)
  | rseval (vd vs vt : VReg)
  | rschien (vd vs : VReg) (rc : XReg)
  | rsforn (vd vs vt vu : VReg)
  | rsdec (vd vs : VReg) (rt : XReg)
  | rsdece (vd vs : VReg) (rt : XReg) (ve : VReg)
  -- CRC (46_crc.md)
  | crcinit
  | crcrst
  | crcupd (vs : VReg)
  | crcfin (rd : XReg)
  | crc (rd : XReg) (vs : VReg)
  -- LFSR (47_lfsr.md)
  | lfsrseed (rs : XReg)
  | lfsrstep (rd : XReg)
  | lfsrn (rd : XReg) (count : Byte)
  deriving DecidableEq, Repr

/-- The control registers by name; these eleven exist (10_state.md R46). -/
inductive Csr where
  | status
  | fieldPoly
  | fieldGen
  | crcCfg
  | crcPoly
  | crcInit
  | crcXorout
  | crcReg
  | lfsrCfg
  | lfsrTaps
  | lfsrState
  deriving DecidableEq, Repr

/-- The lookup tables by name (10_state.md R54, 40_system_and_move.md R109). -/
inductive Table where
  | log
  | alog
  | crctab
  deriving DecidableEq, Repr

end Sys2Proof
end

