-- ==== Sys2Proof/Decode.lean ====
section
/-! DEFINITION. The decoder, total on every 32-bit word and rejecting by name (30_encoding.md R82, R83, R86, R91), the
encoder written from the same tables, the opcode map of R84 as a list of rows, and the numbers of the control
registers (10_state.md R46) and tables (40_system_and_move.md R109).

The four conditions of R87 (PDIVMOD with vq = vr, an undefined CSR number, CSRW to a read-only register, an undefined
table selector) are not tested here: a word is a command of a row exactly when it matches the row (R84), and the
meanings make those four checks first, as their rules' pseudocode does (R103, R104, R109, R172). -/

namespace Sys2Proof

/-- Why a word is no command (30_encoding.md R86). -/
inductive Reject where
  /-- An opcode value that is not in the opcode map. -/
  | unassignedOpcode (op : Byte)
  /-- A listed opcode with a nonzero must-be-zero field. -/
  | mustBeZero
  /-- A listed opcode with bit 3 of a vector field set. -/
  | vectorField
  /-- Opcode 0x47 with an erasure tag other than 0x00 and 0x01. -/
  | erasureTag
  deriving DecidableEq, Repr

/-- The fields of a command word (R82). `I16` is `c`, `d` and `i8` together. -/
structure Fields where
  op : Byte
  a : BitVec 4 := 0
  b : BitVec 4 := 0
  c : BitVec 4 := 0
  d : BitVec 4 := 0
  i8 : Byte := 0
  deriving DecidableEq, Repr

/-- The fields taken out of a command word (R82). -/
def unpack (w : Word) : Fields where
  op := w.extractLsb' 24 8
  a := w.extractLsb' 20 4
  b := w.extractLsb' 16 4
  c := w.extractLsb' 12 4
  d := w.extractLsb' 8 4
  i8 := w.extractLsb' 0 8

/-- The command word that has these fields (R82, R91). -/
def pack (f : Fields) : Word := f.op ++ f.a ++ f.b ++ f.c ++ f.d ++ f.i8

/-- `I16`, bits 15:0 of the word: it "overlaps `C`, `D`, `I8`" (R82). -/
def Fields.i16 (f : Fields) : BitVec 16 := f.c ++ f.d ++ f.i8

/-- A scalar register operand uses all 4 bits of its field (R82). -/
def xField (n : BitVec 4) : XReg := n.toFin

/-- A vector register operand uses bits 2:0 of its field; bit 3 must be 0 (R82). -/
def vField (n : BitVec 4) : Except Reject VReg :=
  if n.getLsbD 3 then .error .vectorField else .ok (n.setWidth 3).toFin

/-- The 4-bit field that names a scalar register. -/
def xBits (r : XReg) : BitVec 4 := BitVec.ofFin r

/-- The 4-bit field that names a vector register: bit 3 is 0. -/
def vBits (r : VReg) : BitVec 4 := BitVec.ofNat 4 r.val

/-- A field a command does not use must be 0 (R82). -/
def unused (c : Bool) : Except Reject Unit :=
  if c then .ok () else .error .mustBeZero

/-! ### The formats (R83) -/

def formatZ (f : Fields) (k : Instr) : Except Reject Instr := do
  unused (f.a = 0 ∧ f.b = 0 ∧ f.c = 0 ∧ f.d = 0 ∧ f.i8 = 0)
  return k

def formatD (f : Fields) (k : XReg → Instr) : Except Reject Instr := do
  unused (f.b = 0 ∧ f.c = 0 ∧ f.d = 0 ∧ f.i8 = 0)
  return k (xField f.a)

def formatS (f : Fields) (k : XReg → Instr) : Except Reject Instr := do
  unused (f.a = 0 ∧ f.c = 0 ∧ f.d = 0 ∧ f.i8 = 0)
  return k (xField f.b)

def formatDI (f : Fields) (k : XReg → Byte → Instr) : Except Reject Instr := do
  unused (f.b = 0 ∧ f.c = 0 ∧ f.d = 0)
  return k (xField f.a) f.i8

def formatSI (f : Fields) (k : Byte → XReg → Instr) : Except Reject Instr := do
  unused (f.a = 0 ∧ f.c = 0 ∧ f.d = 0)
  return k f.i8 (xField f.b)

def formatRI16 (f : Fields) (k : XReg → BitVec 16 → Instr) : Except Reject Instr := do
  unused (f.b = 0)
  return k (xField f.a) f.i16

def formatRR (f : Fields) (k : XReg → XReg → Instr) : Except Reject Instr := do
  unused (f.c = 0 ∧ f.d = 0 ∧ f.i8 = 0)
  return k (xField f.a) (xField f.b)

def formatRRI (f : Fields) (k : XReg → Byte → XReg → Instr) : Except Reject Instr := do
  unused (f.c = 0 ∧ f.d = 0)
  return k (xField f.a) f.i8 (xField f.b)

def formatRRR (f : Fields) (k : XReg → XReg → XReg → Instr) : Except Reject Instr := do
  unused (f.d = 0 ∧ f.i8 = 0)
  return k (xField f.a) (xField f.b) (xField f.c)

def formatV (f : Fields) (k : VReg → Instr) : Except Reject Instr := do
  unused (f.b = 0 ∧ f.c = 0 ∧ f.d = 0 ∧ f.i8 = 0)
  return k (← vField f.a)

def formatVI (f : Fields) (k : VReg → Byte → Instr) : Except Reject Instr := do
  unused (f.b = 0 ∧ f.c = 0 ∧ f.d = 0)
  return k (← vField f.a) f.i8

def formatVS (f : Fields) (k : VReg → XReg → Instr) : Except Reject Instr := do
  unused (f.c = 0 ∧ f.d = 0 ∧ f.i8 = 0)
  return k (← vField f.a) (xField f.b)

def formatVRR (f : Fields) (k : VReg → XReg → XReg → Instr) : Except Reject Instr := do
  unused (f.d = 0 ∧ f.i8 = 0)
  return k (← vField f.a) (xField f.b) (xField f.c)

def formatRV (f : Fields) (k : XReg → VReg → Instr) : Except Reject Instr := do
  unused (f.c = 0 ∧ f.d = 0 ∧ f.i8 = 0)
  return k (xField f.a) (← vField f.b)

def formatRVR (f : Fields) (k : XReg → VReg → XReg → Instr) : Except Reject Instr := do
  unused (f.d = 0 ∧ f.i8 = 0)
  return k (xField f.a) (← vField f.b) (xField f.c)

def formatSV (f : Fields) (k : VReg → Instr) : Except Reject Instr := do
  unused (f.a = 0 ∧ f.c = 0 ∧ f.d = 0 ∧ f.i8 = 0)
  return k (← vField f.b)

def formatVV (f : Fields) (k : VReg → VReg → Instr) : Except Reject Instr := do
  unused (f.c = 0 ∧ f.d = 0 ∧ f.i8 = 0)
  return k (← vField f.a) (← vField f.b)

def formatVR (f : Fields) (k : VReg → XReg → Instr) : Except Reject Instr := do
  unused (f.b = 0 ∧ f.d = 0 ∧ f.i8 = 0)
  return k (← vField f.a) (xField f.c)

def formatVVR (f : Fields) (k : VReg → VReg → XReg → Instr) : Except Reject Instr := do
  unused (f.d = 0 ∧ f.i8 = 0)
  return k (← vField f.a) (← vField f.b) (xField f.c)

def formatVVV (f : Fields) (k : VReg → VReg → VReg → Instr) : Except Reject Instr := do
  unused (f.d = 0 ∧ f.i8 = 0)
  return k (← vField f.a) (← vField f.b) (← vField f.c)

def formatVVVV (f : Fields) (k : VReg → VReg → VReg → VReg → Instr) : Except Reject Instr := do
  unused (f.i8 = 0)
  return k (← vField f.a) (← vField f.b) (← vField f.c) (← vField f.d)

/-- The erasure tag is `I8` = 1 (the caller has looked at it). -/
def formatVVRVE (f : Fields) (k : VReg → VReg → XReg → VReg → Instr) : Except Reject Instr := do
  return k (← vField f.a) (← vField f.b) (xField f.c) (← vField f.d)

/-- Opcode 0x47: "RSDEC and RSDECE share opcode 0x47 and are told apart by `I8`" (R84). -/
def decodeRsdec (f : Fields) : Except Reject Instr :=
  match f.i8 with
  | 0x00#8 => formatVVR f .rsdec
  | 0x01#8 => formatVVRVE f .rsdece
  | _ => .error .erasureTag

/-- The opcode map on the fields of a word (R84, R91): the opcode selects the command and its format. -/
def decodeFields (f : Fields) : Except Reject Instr :=
  match f.op with
  | 0x00#8 => formatZ f .nop
  | 0x01#8 => formatZ f .init
  | 0x02#8 => formatDI f .csrr
  | 0x03#8 => formatSI f .csrw
  | 0x04#8 => formatS f .rd
  | 0x05#8 => formatRI16 f .li
  | 0x06#8 => formatRI16 f .lih
  | 0x07#8 => formatRR f .mov
  | 0x08#8 => formatRRI f .tblrd
  | 0x10#8 => formatRRR f .gfadd
  | 0x11#8 => formatRRR f .gfmul
  | 0x12#8 => formatRR f .gfinv
  | 0x13#8 => formatRRR f .gfpow
  | 0x14#8 => formatRRR f .gfdiv
  | 0x20#8 => formatV f .vclr
  | 0x21#8 => formatVI f .vpushi
  | 0x22#8 => formatVS f .vpush
  | 0x23#8 => formatRVR f .vget
  | 0x24#8 => formatRV f .vlen
  | 0x25#8 => formatVV f .vmov
  | 0x26#8 => formatVV f .vrev
  | 0x27#8 => formatVRR f .vset
  | 0x30#8 => formatRVR f .peval
  | 0x31#8 => formatVVV f .pmul
  | 0x32#8 => formatVVVV f .pdivmod
  | 0x33#8 => formatVV f .ptrim
  | 0x40#8 => formatVR f .rsgen
  | 0x41#8 => formatVVR f .rsenc
  | 0x42#8 => formatVVR f .rssyn
  | 0x43#8 => formatVVR f .rsloc
  | 0x44#8 => formatVVV f .rseval
  | 0x45#8 => formatVVR f .rschien
  | 0x46#8 => formatVVVV f .rsforn
  | 0x47#8 => decodeRsdec f
  | 0x50#8 => formatZ f .crcinit
  | 0x51#8 => formatZ f .crcrst
  | 0x52#8 => formatSV f .crcupd
  | 0x53#8 => formatD f .crcfin
  | 0x54#8 => formatRV f .crc
  | 0x60#8 => formatS f .lfsrseed
  | 0x61#8 => formatD f .lfsrstep
  | 0x62#8 => formatDI f .lfsrn
  | op => .error (.unassignedOpcode op)

/-- The command a word is, or why it is none (R91). -/
def decode (w : Word) : Except Reject Instr := decodeFields (unpack w)

/-! ### The encoder (R91: "To encode") -/

/-- The fields of a command: its opcode, its operands in their fields, every unused field 0 (R83, R84). -/
def fieldsOf : Instr → Fields
  | .nop => { op := 0x00 }
  | .init => { op := 0x01 }
  | .csrr rd csr => { op := 0x02, a := xBits rd, i8 := csr }
  | .csrw csr rs => { op := 0x03, b := xBits rs, i8 := csr }
  | .rd rs => { op := 0x04, b := xBits rs }
  | .li rd imm => { op := 0x05, a := xBits rd, c := imm.extractLsb' 12 4, d := imm.extractLsb' 8 4, i8 := imm.extractLsb' 0 8 }
  | .lih rd imm => { op := 0x06, a := xBits rd, c := imm.extractLsb' 12 4, d := imm.extractLsb' 8 4, i8 := imm.extractLsb' 0 8 }
  | .mov rd rs => { op := 0x07, a := xBits rd, b := xBits rs }
  | .tblrd rd sel rs => { op := 0x08, a := xBits rd, b := xBits rs, i8 := sel }
  | .gfadd rd rs rt => { op := 0x10, a := xBits rd, b := xBits rs, c := xBits rt }
  | .gfmul rd rs rt => { op := 0x11, a := xBits rd, b := xBits rs, c := xBits rt }
  | .gfinv rd rs => { op := 0x12, a := xBits rd, b := xBits rs }
  | .gfpow rd rs rt => { op := 0x13, a := xBits rd, b := xBits rs, c := xBits rt }
  | .gfdiv rd rs rt => { op := 0x14, a := xBits rd, b := xBits rs, c := xBits rt }
  | .vclr vd => { op := 0x20, a := vBits vd }
  | .vpushi vd imm => { op := 0x21, a := vBits vd, i8 := imm }
  | .vpush vd rs => { op := 0x22, a := vBits vd, b := xBits rs }
  | .vget rd vs rt => { op := 0x23, a := xBits rd, b := vBits vs, c := xBits rt }
  | .vlen rd vs => { op := 0x24, a := xBits rd, b := vBits vs }
  | .vmov vd vs => { op := 0x25, a := vBits vd, b := vBits vs }
  | .vrev vd vs => { op := 0x26, a := vBits vd, b := vBits vs }
  | .vset vd rs rt => { op := 0x27, a := vBits vd, b := xBits rs, c := xBits rt }
  | .peval rd vs rt => { op := 0x30, a := xBits rd, b := vBits vs, c := xBits rt }
  | .pmul vd vs vt => { op := 0x31, a := vBits vd, b := vBits vs, c := vBits vt }
  | .pdivmod vq vr vs vt => { op := 0x32, a := vBits vq, b := vBits vr, c := vBits vs, d := vBits vt }
  | .ptrim vd vs => { op := 0x33, a := vBits vd, b := vBits vs }
  | .rsgen vd rt => { op := 0x40, a := vBits vd, c := xBits rt }
  | .rsenc vd vs rt => { op := 0x41, a := vBits vd, b := vBits vs, c := xBits rt }
  | .rssyn vd vs rt => { op := 0x42, a := vBits vd, b := vBits vs, c := xBits rt }
  | .rsloc vd vs rc => { op := 0x43, a := vBits vd, b := vBits vs, c := xBits rc }
  | .rseval vd vs vt => { op := 0x44, a := vBits vd, b := vBits vs, c := vBits vt }
  | .rschien vd vs rc => { op := 0x45, a := vBits vd, b := vBits vs, c := xBits rc }
  | .rsforn vd vs vt vu => { op := 0x46, a := vBits vd, b := vBits vs, c := vBits vt, d := vBits vu }
  | .rsdec vd vs rt => { op := 0x47, a := vBits vd, b := vBits vs, c := xBits rt }
  | .rsdece vd vs rt ve => { op := 0x47, a := vBits vd, b := vBits vs, c := xBits rt, d := vBits ve, i8 := 0x01 }
  | .crcinit => { op := 0x50 }
  | .crcrst => { op := 0x51 }
  | .crcupd vs => { op := 0x52, b := vBits vs }
  | .crcfin rd => { op := 0x53, a := xBits rd }
  | .crc rd vs => { op := 0x54, a := xBits rd, b := vBits vs }
  | .lfsrseed rs => { op := 0x60, b := xBits rs }
  | .lfsrstep rd => { op := 0x61, a := xBits rd }
  | .lfsrn rd count => { op := 0x62, a := xBits rd, i8 := count }

/-- The word of a command (R91). -/
def encode (i : Instr) : Word := pack (fieldsOf i)

/-! ### The opcode map as a table (R84) -/

/-- One row of R84: "A word w is the command of a row exactly when `(w AND mask) = match`". -/
structure OpcodeRow where
  mnemonic : String
  pattern : Word
  mask : Word
  deriving DecidableEq, Repr

/-- A word matches a row (R84). -/
def OpcodeRow.matchesWord (r : OpcodeRow) (w : Word) : Bool := (w &&& r.mask) == r.pattern

def systemRows : List OpcodeRow :=
  [⟨"NOP", 0x00000000, 0xFFFFFFFF⟩, ⟨"INIT", 0x01000000, 0xFFFFFFFF⟩, ⟨"CSRR", 0x02000000, 0xFF0FFF00⟩,
   ⟨"CSRW", 0x03000000, 0xFFF0FF00⟩, ⟨"RD", 0x04000000, 0xFFF0FFFF⟩, ⟨"LI", 0x05000000, 0xFF0F0000⟩,
   ⟨"LIH", 0x06000000, 0xFF0F0000⟩, ⟨"MOV", 0x07000000, 0xFF00FFFF⟩, ⟨"TBLRD", 0x08000000, 0xFF00FF00⟩]

def galoisRows : List OpcodeRow :=
  [⟨"GFADD", 0x10000000, 0xFF000FFF⟩, ⟨"GFMUL", 0x11000000, 0xFF000FFF⟩, ⟨"GFINV", 0x12000000, 0xFF00FFFF⟩,
   ⟨"GFPOW", 0x13000000, 0xFF000FFF⟩, ⟨"GFDIV", 0x14000000, 0xFF000FFF⟩]

def vectorRows : List OpcodeRow :=
  [⟨"VCLR", 0x20000000, 0xFF8FFFFF⟩, ⟨"VPUSHI", 0x21000000, 0xFF8FFF00⟩, ⟨"VPUSH", 0x22000000, 0xFF80FFFF⟩,
   ⟨"VGET", 0x23000000, 0xFF080FFF⟩, ⟨"VLEN", 0x24000000, 0xFF08FFFF⟩, ⟨"VMOV", 0x25000000, 0xFF88FFFF⟩,
   ⟨"VREV", 0x26000000, 0xFF88FFFF⟩, ⟨"VSET", 0x27000000, 0xFF800FFF⟩]

def polynomialRows : List OpcodeRow :=
  [⟨"PEVAL", 0x30000000, 0xFF080FFF⟩, ⟨"PMUL", 0x31000000, 0xFF888FFF⟩, ⟨"PDIVMOD", 0x32000000, 0xFF8888FF⟩,
   ⟨"PTRIM", 0x33000000, 0xFF88FFFF⟩]

def reedSolomonRows : List OpcodeRow :=
  [⟨"RSGEN", 0x40000000, 0xFF8F0FFF⟩, ⟨"RSENC", 0x41000000, 0xFF880FFF⟩, ⟨"RSSYN", 0x42000000, 0xFF880FFF⟩,
   ⟨"RSLOC", 0x43000000, 0xFF880FFF⟩, ⟨"RSEVAL", 0x44000000, 0xFF888FFF⟩, ⟨"RSCHIEN", 0x45000000, 0xFF880FFF⟩,
   ⟨"RSFORN", 0x46000000, 0xFF8888FF⟩, ⟨"RSDEC", 0x47000000, 0xFF880FFF⟩, ⟨"RSDECE", 0x47000001, 0xFF8808FF⟩]

def crcRows : List OpcodeRow :=
  [⟨"CRCINIT", 0x50000000, 0xFFFFFFFF⟩, ⟨"CRCRST", 0x51000000, 0xFFFFFFFF⟩, ⟨"CRCUPD", 0x52000000, 0xFFF8FFFF⟩,
   ⟨"CRCFIN", 0x53000000, 0xFF0FFFFF⟩, ⟨"CRC", 0x54000000, 0xFF08FFFF⟩]

def lfsrRows : List OpcodeRow :=
  [⟨"LFSRSEED", 0x60000000, 0xFFF0FFFF⟩, ⟨"LFSRSTEP", 0x61000000, 0xFF0FFFFF⟩, ⟨"LFSRN", 0x62000000, 0xFF0FFF00⟩]

/-- The 43 rows of R84. -/
def opcodeRows : List OpcodeRow :=
  systemRows ++ galoisRows ++ vectorRows ++ polynomialRows ++ reedSolomonRows ++ crcRows ++ lfsrRows

/-- The mnemonic of a command, as R84 spells it. -/
def mnemonic : Instr → String
  | .nop => "NOP" | .init => "INIT" | .csrr .. => "CSRR" | .csrw .. => "CSRW" | .rd .. => "RD" | .li .. => "LI"
  | .lih .. => "LIH" | .mov .. => "MOV" | .tblrd .. => "TBLRD"
  | .gfadd .. => "GFADD" | .gfmul .. => "GFMUL" | .gfinv .. => "GFINV" | .gfpow .. => "GFPOW" | .gfdiv .. => "GFDIV"
  | .vclr .. => "VCLR" | .vpushi .. => "VPUSHI" | .vpush .. => "VPUSH" | .vget .. => "VGET" | .vlen .. => "VLEN"
  | .vmov .. => "VMOV" | .vrev .. => "VREV" | .vset .. => "VSET"
  | .peval .. => "PEVAL" | .pmul .. => "PMUL" | .pdivmod .. => "PDIVMOD" | .ptrim .. => "PTRIM"
  | .rsgen .. => "RSGEN" | .rsenc .. => "RSENC" | .rssyn .. => "RSSYN" | .rsloc .. => "RSLOC" | .rseval .. => "RSEVAL"
  | .rschien .. => "RSCHIEN" | .rsforn .. => "RSFORN" | .rsdec .. => "RSDEC" | .rsdece .. => "RSDECE"
  | .crcinit => "CRCINIT" | .crcrst => "CRCRST" | .crcupd .. => "CRCUPD" | .crcfin .. => "CRCFIN" | .crc .. => "CRC"
  | .lfsrseed .. => "LFSRSEED" | .lfsrstep .. => "LFSRSTEP" | .lfsrn .. => "LFSRN"

/-! ### Numbers of control registers and tables -/

/-- The control register a CSR number names; "every other CSR number fails with `IllegalCommand`" (10_state.md R46). -/
def csrOfNumber (n : Byte) : Option Csr :=
  match n with
  | 0x00#8 => some .status
  | 0x01#8 => some .fieldPoly
  | 0x02#8 => some .fieldGen
  | 0x10#8 => some .crcCfg
  | 0x11#8 => some .crcPoly
  | 0x12#8 => some .crcInit
  | 0x13#8 => some .crcXorout
  | 0x14#8 => some .crcReg
  | 0x20#8 => some .lfsrCfg
  | 0x21#8 => some .lfsrTaps
  | 0x22#8 => some .lfsrState
  | _ => none

/-- The control registers CSRW may name; FIELD_POLY, FIELD_GEN and LFSR_STATE are read-only as a whole (R46, R87). -/
def csrWritable : Csr → Bool
  | .fieldPoly | .fieldGen | .lfsrState => false
  | .status | .crcCfg | .crcPoly | .crcInit | .crcXorout | .crcReg | .lfsrCfg | .lfsrTaps => true

/-- The table a selector names: `LOG` (0), `ALOG` (1), `CRCTAB` (2) (30_encoding.md R89, R109). -/
def tableOfSelector (sel : Byte) : Option Table :=
  match sel with
  | 0x00#8 => some .log
  | 0x01#8 => some .alog
  | 0x02#8 => some .crctab
  | _ => none

/-- The command that the decoder reads from an instruction of `nbits` bits whose bits are `w`, every bit above them 0.
A command is one 32-bit word; there is no longer one (R81). -/
def decodeTableWord (nbits w : Nat) : Option Instr :=
  if nbits ≤ 32 then (decode (BitVec.ofNat 32 (w % 2 ^ nbits))).toOption else none

end Sys2Proof
end

