-- ==== Sys2Proof/Config.lean ====
section
/-! DEFINITION. The parameters of the block (00_scope.md R6) and its one free value.

`FIELD_POLY` and `FIELD_GEN` are the spec's OPEN parameters (92_eei_decisions.md D7).
The values here are only what `State.reset` puts into the two read-only control registers that hold them (R35, R36):
every meaning reads those registers, so a theorem about every state is a theorem about every pair of parameters. -/

namespace Sys2Proof.Config

/-- `FIELD_POLY`, the value the spec uses in every example (R6). PRESUMED, unsafe for a run from reset: notes/assumptions/1.md. -/
def fieldPoly : BitVec 9 := 0x11D#9

/-- `FIELD_GEN`, the value the spec uses in every example (R6). PRESUMED, unsafe for a run from reset: notes/assumptions/1.md. -/
def fieldGen : Byte := 0x02#8

/-- `VCAP`, the capacity of a vector register in symbols (R6, R25). -/
def vcap : Nat := 256

/-- `N_MAX`, the longest codeword (R6). -/
def nMax : Nat := 255

/-- The largest parity count a legal (n, k) has (44_rs_encode.md R183). -/
def parityMax : Nat := 254

/-- `CRC_WIDTHS`, the legal CRC widths (R6). -/
def crcWidths : List Nat := [8, 16, 32]

/-- `LFSR_WMAX`, the largest LFSR width (R6). -/
def lfsrWidthMax : Nat := 32

/-- The content of `LOG[0]`, which "has no defined content" and which "no command reads" (10_state.md R50, U17).
A free value: nothing in Lean can say what it is. DESIGN CHOICE, safe: notes/assumptions/2.md. -/
opaque logOfZero : Byte

end Sys2Proof.Config
end

