-- ==== Sys2Proof/Machine/State.lean ====
section
/-! DEFINITION. The state of GFCORE as plain data, and the machine right after reset.

It holds the five address spaces of 10_state.md R54: the scalar registers, the vector registers, the control registers
(R46), the three tables (R50 to R52), and the command and response ports (30_encoding.md R80).
There is no program counter, no memory, no flag and no mode (R29, R30, 20_memory.md R60, 60_exceptions.md R272). -/

namespace Sys2Proof.Machine

/-- The failures of a command: codes 1 to 8 of 60_exceptions.md R262. -/
inductive Failure where
  | invalidParameters
  | divisionByZero
  /-- Reserved for D0's Shamir component: no command produces it (R262, U13). -/
  | insufficientShares
  | erasureLimitExceeded
  | uncorrectableError
  | notInitialized
  | capacityExceeded
  | illegalCommand
  deriving DecidableEq, Repr

/-- The result code of a command: "a model's code type has nine values" (U12, R260, R262). -/
inductive Code where
  | ok
  | failure (f : Failure)
  deriving DecidableEq, Repr

/-- The fields of `STATUS` that are not reserved (10_state.md R32); the reserved bits read as 0 and hold nothing. -/
structure Status where
  /-- `FRDY`: the field tables are built and verified. -/
  frdy : Bool
  /-- `CRDY`: CRCTAB matches the CRC configuration. -/
  crdy : Bool
  /-- `LAST`: the result code of the most recently completed command. -/
  last : Code
  /-- `STICKY`: bit c-1 is set when any command completes with failure code c. -/
  sticky : BitVec 8
  deriving DecidableEq, Repr

/-- A response: a result code and a data word (30_encoding.md R80, R92). -/
structure Response where
  code : Code
  data : Word
  deriving DecidableEq, Repr

/-- What the outside world can do to the block: "the only input events are reset ... and command words"
(60_exceptions.md R267). -/
inductive Input where
  | command (word : Word)
  | reset
  deriving DecidableEq, Repr

/-- The lookup tables of the field (10_state.md R50, R51). -/
structure FieldTables where
  alog : Vector Byte 256
  log : Vector Byte 256
  deriving DecidableEq, Repr

/-- The state of the block and of its two ports. -/
structure State where
  /-- `x0`..`x15` (R20). -/
  x : Vector Word 16
  /-- `v0`..`v7`, each a sequence of bytes; "a model represents a vector register as a list of bytes" (R24, R25). -/
  v : Vector (List Byte) 8
  /-- `STATUS`, CSR 0x00 (R32). -/
  status : Status
  /-- `FIELD_POLY`, CSR 0x01, a constant of the block, 9 bits (R35). -/
  fieldPoly : BitVec 9
  /-- `FIELD_GEN`, CSR 0x02, a constant of the block, 8 bits (R36). -/
  fieldGen : Byte
  /-- `CRC_CFG`, CSR 0x10 (R37). -/
  crcCfg : Word
  /-- `CRC_POLY`, CSR 0x11 (R38). -/
  crcPoly : Word
  /-- `CRC_INIT`, CSR 0x12 (R39). -/
  crcInit : Word
  /-- `CRC_XOROUT`, CSR 0x13 (R40). -/
  crcXorout : Word
  /-- `CRC_REG`, CSR 0x14 (R41). -/
  crcReg : Word
  /-- `LFSR_CFG`, CSR 0x20 (R43). -/
  lfsrCfg : Word
  /-- `LFSR_TAPS`, CSR 0x21 (R44). -/
  lfsrTaps : Word
  /-- `LFSR_STATE`, CSR 0x22 (R45). -/
  lfsrState : Word
  /-- `ALOG` and `LOG` (R50, R51). -/
  tables : FieldTables
  /-- `CRCTAB` (R52). -/
  crctab : Vector Word 256
  /-- The command port and the reset input: what the host presents, oldest first (30_encoding.md R80).
  DESIGN CHOICE, safe: notes/assumptions/3.md. -/
  inputs : List Input
  /-- The response port: every response produced, oldest first (R80). DESIGN CHOICE, safe: notes/assumptions/3.md. -/
  responses : List Response
  deriving DecidableEq, Repr

/-- A machine fault. GFCORE has none: "a failing command does not trap, vector, or stop the block; it completes with a
nonzero result code" (60_exceptions.md R264, R268). No step raises one, so the type has no constructor; safe. -/
inductive Fault : Type
  deriving DecidableEq, Repr

/-- A refusal of the model. -/
inductive Refusal where
  /-- An instruction that has no meaning yet is rejected by its arm of `exec` under its mnemonic; safe.
  Every instruction has its meaning, so no step raises it. -/
  | notModelled (mnemonic : String)
  deriving DecidableEq, Repr

/-- How a step ends. -/
abbrev Outcome := Host.Outcome State Fault Refusal

/-- The machine right after reset (10_state.md R47, 70_reset_and_hazards.md R291).
The contents of LOG, ALOG and CRCTAB are "unspecified but unobservable"; the model holds 0 there.
DESIGN CHOICE, unsafe: notes/assumptions/4.md. -/
def State.reset : State where
  x := Vector.replicate 16 0
  v := Vector.replicate 8 []
  status := { frdy := false, crdy := false, last := .ok, sticky := 0 }
  fieldPoly := Config.fieldPoly
  fieldGen := Config.fieldGen
  crcCfg := 0
  crcPoly := 0
  crcInit := 0
  crcXorout := 0
  crcReg := 0
  lfsrCfg := 0
  lfsrTaps := 0
  lfsrState := 0
  tables := { alog := Vector.replicate 256 0, log := Vector.replicate 256 0 }
  crctab := Vector.replicate 256 0
  inputs := []
  responses := []

end Sys2Proof.Machine
end

