-- ==== Sys2Proof/Machine/Flags.lean ====
section
/-! DEFINITION. The numbers of the result codes and what a completed command does to `STATUS`.

GFCORE "has no condition codes, carry, overflow or predicate flags" (10_state.md R29); what stands in their place is
`STATUS.LAST` and `STATUS.STICKY` (R33, R34). -/

namespace Sys2Proof.Machine

/-- The number of a failure (60_exceptions.md R262). -/
def failureNumber : Failure → Nat
  | .invalidParameters => 1
  | .divisionByZero => 2
  | .insufficientShares => 3
  | .erasureLimitExceeded => 4
  | .uncorrectableError => 5
  | .notInitialized => 6
  | .capacityExceeded => 7
  | .illegalCommand => 8

/-- The 4-bit number of a result code (R260, R262). -/
def codeBits : Code → BitVec 4
  | .ok => 0
  | .failure f => BitVec.ofNat 4 (failureNumber f)

/-- The bit of the 8-bit field `STICKY` that records a failure: bit c-1 of the field, bit 8+(c-1) of `STATUS` (R34). -/
def stickyBit (f : Failure) : BitVec 8 := 1#8 <<< (failureNumber f - 1)

/-- `STATUS` after a command that completed with this code: `LAST` takes the code (R33), a failure sets its sticky bit
(R34), and a command that completes `OK` sets none (R265). -/
def recordCode (st : Status) : Code → Status
  | .ok => { st with last := .ok }
  | .failure f => { st with last := .failure f, sticky := st.sticky ||| stickyBit f }

/-- `STATUS` as CSRR reads it: FRDY in bit 0, CRDY in bit 1, LAST in bits 7:4, STICKY in bits 15:8, the reserved bits 0
(R32). -/
def statusWord (st : Status) : Word :=
  0#16 ++ st.sticky ++ codeBits st.last ++ 0#2 ++ BitVec.ofBool st.crdy ++ BitVec.ofBool st.frdy

/-- `CSRW STATUS`: a 1 in bits 15:8 clears that sticky bit (R34). -/
def clearSticky (st : Status) (w : Word) : Status :=
  { st with sticky := st.sticky &&& ~~~(w.extractLsb' 8 8) }

end Sys2Proof.Machine
end

