-- ==== Sys2Proof/Machine/Ops.lean ====
section
/-! DEFINITION. The operations every meaning is written over: register writes, bit-field helpers, and completing a
command, with success or with a failure.

A failure is this block's exception, and `runCommand` is the one place where it is taken: a `raise` "ends the command
before any write" (60_exceptions.md R264), and there is no trap entry or return (R268, R269). -/

namespace Sys2Proof.Machine

/-! ### Bits (00_scope.md R8) -/

/-- `zext_32` of a byte. -/
def zextByte (b : Byte) : Word := b.setWidth 32

/-- Bits 7:0 of a word. -/
def lowByte (w : Word) : Byte := w.setWidth 8

/-- `v mod 2^W`, as a 32-bit word. -/
def truncTo (W : Nat) (v : Word) : Word := (v.setWidth W).setWidth 32

/-- `bitrev_W(v)`: bit i of the result is bit W-1-i of v. -/
def bitrev (W : Nat) (v : Word) : Word := (v.setWidth W).reverse.setWidth 32

/-- `parity(v)`: the XOR of all bits of v. -/
def parity (v : Word) : Bool := (List.range 32).foldr (fun i p => v.getLsbD i ^^ p) false

/-- A vector of `n` entries, entry i being `f i`. -/
def tabulate {α : Type} (n : Nat) (f : Nat → α) : Vector α n := ⟨⟨(List.range n).map f⟩, by simp⟩

/-! ### Registers -/

/-- `x[r] <- w` (R10, R20): no scalar register is hard-wired. -/
def State.setX (s : State) (r : XReg) (w : Word) : State := { s with x := s.x.set r.val w r.isLt }

/-- `v[r] <- bs`, which replaces the whole content and the length (R10, R24). -/
def State.setV (s : State) (r : VReg) (bs : List Byte) : State := { s with v := s.v.set r.val bs r.isLt }

/-! ### Completing a command -/

/-- The command completes with this code and this data: `STATUS` records the code (10_state.md R33, R34) and the block
produces one response (30_encoding.md R80, R92). -/
def State.complete (s : State) (c : Code) (data : Word) : State :=
  { s with status := recordCode s.status c, responses := s.responses ++ [{ code := c, data := data }] }

/-- What a command that succeeds has done: the state with its destinations written, and its response's data. -/
structure Done where
  state : State
  data : Word
  deriving DecidableEq, Repr

/-- `require cond else f` (R10). -/
def require (cond : Prop) [Decidable cond] (f : Failure) : Except Failure Unit :=
  if cond then .ok () else .error f

/-- The command has written its destinations; its response carries 0 (R92). -/
def done (s : State) : Except Failure Done := .ok { state := s, data := 0 }

/-- Running a command from state `s`. When its body raises, the command completes with that failure and nothing but
`STATUS.LAST` and `STATUS.STICKY` has changed (60_exceptions.md R264); otherwise it completes `OK` (R265). -/
def runCommand (s : State) (body : Except Failure Done) : Outcome :=
  match body with
  | .error f => .next (s.complete (.failure f) 0)
  | .ok d => .next (d.state.complete .ok d.data)

/-- A word that is no command completes with `IllegalCommand` (30_encoding.md R86, 60_exceptions.md R279). -/
def illegalWord (s : State) : Outcome := runCommand s (.error .illegalCommand)

/-- The reset event (70_reset_and_hazards.md R290): the block enters the reset state of R291; the parameters are the
block's constants, and what the host has presented and received is the host's. -/
def applyReset (s : State) : State :=
  { State.reset with
    fieldPoly := s.fieldPoly, fieldGen := s.fieldGen, inputs := s.inputs, responses := s.responses }

end Sys2Proof.Machine
end

