-- ==== Sys2Proof/Machine/Operands.lean ====
section
/-! DEFINITION. The operand forms: a field element in a scalar register, an integer in a scalar register, a vector
register's content, the fields of the configuration registers, and a control register by name. -/

namespace Sys2Proof.Machine

/-- A field element in a scalar register: bits 7:0, bits 31:8 ignored (10_state.md R22). -/
def State.byteOf (s : State) (r : XReg) : Byte := lowByte s.x[r]

/-- An unsigned integer in a scalar register: all 32 bits (42_vector_move.md R148, 44_rs_encode.md R181). -/
def State.natOf (s : State) (r : XReg) : Nat := s.x[r].toNat

/-- `CRC_CFG.WIDTH`, bits 5:0 (R37). -/
def State.crcWidth (s : State) : Nat := (s.crcCfg.extractLsb' 0 6).toNat

/-- `CRC_CFG.REFIN`, bit 8 (R37). -/
def State.crcRefin (s : State) : Bool := s.crcCfg.getLsbD 8

/-- `CRC_CFG.REFOUT`, bit 9 (R37). -/
def State.crcRefout (s : State) : Bool := s.crcCfg.getLsbD 9

/-- `LFSR_CFG.WIDTH`, bits 5:0 (R43). -/
def State.lfsrWidth (s : State) : Nat := (s.lfsrCfg.extractLsb' 0 6).toNat

/-- `LFSR_CFG.MAXLEN`, bit 8 (R43). -/
def State.lfsrMaxlen (s : State) : Bool := s.lfsrCfg.getLsbD 8

/-- The value a control register reads as (R32 to R45). -/
def State.readCsr (s : State) : Csr → Word
  | .status => statusWord s.status
  | .fieldPoly => s.fieldPoly.setWidth 32
  | .fieldGen => zextByte s.fieldGen
  | .crcCfg => s.crcCfg
  | .crcPoly => s.crcPoly
  | .crcInit => s.crcInit
  | .crcXorout => s.crcXorout
  | .crcReg => s.crcReg
  | .lfsrCfg => s.lfsrCfg
  | .lfsrTaps => s.lfsrTaps
  | .lfsrState => s.lfsrState

/-- `STATUS.CRDY <- 0` (R42). -/
def State.clearCrdy (s : State) : State := { s with status := { s.status with crdy := false } }

end Sys2Proof.Machine
end

