-- ==== Sys2Proof/Machine/Crc.lean ====
section
/-! DEFINITION. The CRC unit (46_crc.md): CRCINIT, CRCRST, CRCUPD, CRCFIN, CRC. It uses no field table. -/

namespace Sys2Proof.Machine

/-! ### The functions -/

/-- One shift of the register: `(reg << 1) mod 2^W`, XOR P when bit W-1 was set (R223, R225). -/
def crcShift (W : Nat) (poly reg : Word) : Word :=
  if reg.getLsbD (W - 1) then truncTo W (reg <<< 1) ^^^ poly else truncTo W (reg <<< 1)

/-- `n` shifts of the register. -/
def crcShifts (W : Nat) (poly : Word) : Nat → Word → Word
  | 0, reg => reg
  | n + 1, reg => crcShifts W poly n (crcShift W poly reg)

/-- `crc_table_entry(i)` (R223). -/
def crcTableEntry (W : Nat) (poly : Word) (i : Byte) : Word := crcShifts W poly 8 (zextByte i <<< (W - 8))

/-- The table CRCINIT builds (R222). -/
def crcBuildTable (W : Nat) (poly : Word) : Vector Word 256 :=
  tabulate 256 fun i => crcTableEntry W poly (BitVec.ofNat 8 i)

/-- The byte as it is folded in: bit-reversed when `REFIN = 1` (R224). -/
def crcInputByte (refin : Bool) (b : Byte) : Byte := if refin then b.reverse else b

/-- `crc_update(reg, b)` by the table (R224). The index `(reg >> (W-8)) XOR b'` is a byte because reg is W bits. -/
def crcUpdate (W : Nat) (refin : Bool) (tab : Vector Word 256) (reg : Word) (b : Byte) : Word :=
  let idx := lowByte (reg >>> (W - 8)) ^^^ crcInputByte refin b
  truncTo W (reg <<< 8) ^^^ tab[idx.toNat]'idx.isLt

/-- The register after a message, first byte first (R226, R232). -/
def crcFold (W : Nat) (refin : Bool) (tab : Vector Word 256) (reg : Word) (msg : List Byte) : Word :=
  msg.foldl (crcUpdate W refin tab) reg

/-- `crc_finalize(reg)` (R231). -/
def crcFinalize (W : Nat) (refout : Bool) (xorout reg : Word) : Word :=
  (if refout then bitrev W reg else reg) ^^^ xorout

/-- The checks of CRCINIT on the configuration (R222). -/
def State.crcConfigOk (s : State) : Prop :=
  s.crcWidth ∈ Config.crcWidths ∧ s.crcPoly ≠ 0 ∧
    s.crcPoly.toNat < 2 ^ s.crcWidth ∧ s.crcInit.toNat < 2 ^ s.crcWidth ∧ s.crcXorout.toNat < 2 ^ s.crcWidth

/-- `CRC_REG` of this state after a message, from a register value, by the state's configuration and table. -/
def State.crcRegAfter (s : State) (reg : Word) (msg : List Byte) : Word :=
  crcFold s.crcWidth s.crcRefin s.crctab reg msg

/-- The checksum of this state's configuration for a register value (R231). -/
def State.crcChecksum (s : State) (reg : Word) : Word := crcFinalize s.crcWidth s.crcRefout s.crcXorout reg

/-! ### The commands -/

/-- CRCINIT (R222). -/
def execCrcinit (s : State) : Outcome := runCommand s do
  require (s.crcWidth ∈ Config.crcWidths) .invalidParameters
  require (s.crcPoly ≠ 0) .invalidParameters
  require (s.crcPoly.toNat < 2 ^ s.crcWidth ∧ s.crcInit.toNat < 2 ^ s.crcWidth ∧ s.crcXorout.toNat < 2 ^ s.crcWidth)
    .invalidParameters
  done { s with
    crctab := crcBuildTable s.crcWidth s.crcPoly, crcReg := s.crcInit, status := { s.status with crdy := true } }

/-- CRCRST (R227). -/
def execCrcrst (s : State) : Outcome := runCommand s do
  require s.status.crdy .notInitialized
  done { s with crcReg := s.crcInit }

/-- CRCUPD (R226). -/
def execCrcupd (vs : VReg) (s : State) : Outcome := runCommand s do
  require s.status.crdy .notInitialized
  done { s with crcReg := s.crcRegAfter s.crcReg s.v[vs] }

/-- CRCFIN (R228): does not change `CRC_REG`. -/
def execCrcfin (rd : XReg) (s : State) : Outcome := runCommand s do
  require s.status.crdy .notInitialized
  done (s.setX rd (s.crcChecksum s.crcReg))

/-- CRC, the one-shot form (R229). -/
def execCrc (rd : XReg) (vs : VReg) (s : State) : Outcome := runCommand s do
  require s.status.crdy .notInitialized
  let reg := s.crcRegAfter s.crcInit s.v[vs]
  done ({ s with crcReg := reg }.setX rd (s.crcChecksum reg))

end Sys2Proof.Machine
end

