-- ==== Sys2Proof/Machine/Lfsr.lean ====
section
/-! DEFINITION. The LFSR unit (47_lfsr.md): LFSRSEED, LFSRSTEP, LFSRN. It uses no table. -/

namespace Sys2Proof.Machine

/-! ### The functions -/

/-- The new state of `lfsr_step`: shift right by one, the feedback enters at bit w-1 (R243). -/
def lfsrNext (w : Nat) (taps st : Word) : Word :=
  st >>> 1 ||| (BitVec.ofBool (parity (st &&& taps))).setWidth 32 <<< (w - 1)

/-- The output bit of `lfsr_step`: the bit shifted out (R243). -/
def lfsrOut (st : Word) : Bool := st.getLsbD 0

/-- The state after `n` steps. -/
def lfsrAfter (w : Nat) (taps : Word) : Nat → Word → Word
  | 0, st => st
  | n + 1, st => lfsrAfter w taps n (lfsrNext w taps st)

/-- The output bits of `n` steps packed into a word, "first bit produced goes to bit 0" (R246). -/
def lfsrPack (w : Nat) (taps : Word) : Nat → Word → Word
  | 0, _ => 0
  | n + 1, st => lfsrPack w taps n (lfsrNext w taps st) <<< 1 ||| (BitVec.ofBool (lfsrOut st)).setWidth 32

/-- The first two lines of `lfsr_config_ok` (R241): what LFSRSEED checks. -/
def State.lfsrShapeOk (s : State) : Bool :=
  1 ≤ s.lfsrWidth && s.lfsrWidth ≤ Config.lfsrWidthMax && s.lfsrTaps.toNat < 2 ^ s.lfsrWidth

/-- `lfsr_config_ok`, all three lines (R241). -/
def State.lfsrConfigOk (s : State) : Bool := s.lfsrShapeOk && s.lfsrState.toNat < 2 ^ s.lfsrWidth

/-! ### The commands -/

/-- LFSRSEED (R242). -/
def execLfsrseed (rs : XReg) (s : State) : Outcome := runCommand s do
  require s.lfsrShapeOk .invalidParameters
  require (s.natOf rs < 2 ^ s.lfsrWidth) .invalidParameters
  require (¬ (s.x[rs] = 0 ∧ s.lfsrMaxlen)) .invalidParameters
  done { s with lfsrState := s.x[rs] }

/-- LFSRSTEP (R244). -/
def execLfsrstep (rd : XReg) (s : State) : Outcome := runCommand s do
  require s.lfsrConfigOk .invalidParameters
  done ({ s with lfsrState := lfsrNext s.lfsrWidth s.lfsrTaps s.lfsrState }.setX rd
    ((BitVec.ofBool (lfsrOut s.lfsrState)).setWidth 32))

/-- LFSRN (R246). -/
def execLfsrn (rd : XReg) (count : Byte) (s : State) : Outcome := runCommand s do
  require (1 ≤ count.toNat ∧ count.toNat ≤ 32) .invalidParameters
  require s.lfsrConfigOk .invalidParameters
  done ({ s with lfsrState := lfsrAfter s.lfsrWidth s.lfsrTaps count.toNat s.lfsrState }.setX rd
    (lfsrPack s.lfsrWidth s.lfsrTaps count.toNat s.lfsrState))

end Sys2Proof.Machine
end

