-- ==== Sys2Proof/Machine/Galois.lean ====
section
/-! DEFINITION. The GF(2^8) arithmetic unit (41_gf_arithmetic.md): multiplication from the definition, the tables,
the field functions, and the commands GFADD, GFMUL, GFINV, GFPOW, GFDIV. -/

namespace Sys2Proof.Machine

/-! ### The field and its tables -/

/-- `a << 1`, reduced by `FIELD_POLY` when bit 8 is set, back to 8 bits (R120).
Under a `FIELD_POLY` whose bit 8 is 0, which 00_scope.md R6 rules out, the loop of R120 would leave a ninth bit; here it
is dropped, and `gfTablesOk` refuses such a polynomial. DESIGN CHOICE, safe: notes/assumptions/14.md. -/
def gfDouble (poly : BitVec 9) (a : Byte) : Byte :=
  let shifted : BitVec 9 := a.setWidth 9 <<< 1
  (if shifted.getLsbD 8 then shifted ^^^ poly else shifted).setWidth 8

/-- The last `n` turns of the loop of R120: turn `8 - n` looks at bit `8 - n` of `b`. -/
def gfMulxLoop (poly : BitVec 9) (b : Byte) : Nat → Byte → Byte → Byte
  | 0, _, r => r
  | n + 1, a, r => gfMulxLoop poly b n (gfDouble poly a) (if b.getLsbD (7 - n) then r ^^^ a else r)

/-- `gf_mulx(a, b)`, the carry-less product reduced modulo `FIELD_POLY` (R120). -/
def gfMulx (poly : BitVec 9) (a b : Byte) : Byte := gfMulxLoop poly b 8 a 0

/-- `v, v·gen, v·gen², ...`, `n` values (the loop of R121). -/
def gfPowers (poly : BitVec 9) (gen : Byte) : Nat → Byte → List Byte
  | 0, _ => []
  | n + 1, v => v :: gfPowers poly gen n (gfMulx poly v gen)

/-- The bytes that occur in a list, as a set of bits; `none` when one occurs twice (`log[v]` "is defined" already,
R121). -/
def markOnce : List Byte → Nat → Option Nat
  | [], seen => some seen
  | v :: vs, seen => if seen.testBit v.toNat then none else markOnce vs (seen ||| 1 <<< v.toNat)

/-- The startup assertion (40_system_and_move.md R102, R121): the 255 values `gen^0 .. gen^254` are pairwise distinct,
every byte 1..255 is among them, and the next value, `gen^255`, is 1. They are bytes only under a polynomial of degree 8
(00_scope.md R6), so one whose bit 8 is 0 fails: notes/assumptions/14.md. -/
def gfTablesOk (poly : BitVec 9) (gen : Byte) : Bool :=
  poly.getLsbD 8 && markOnce (gfPowers poly gen 255 1) 0 == some (2 ^ 256 - 2) && (gfPowers poly gen 256 1).getD 255 0 == 1

/-- `ALOG` as `gf_build_tables` builds it: entry i is `gen^i`, i = 0..255 (R121, 10_state.md R51). -/
def gfBuildAlog (poly : BitVec 9) (gen : Byte) : Vector Byte 256 :=
  tabulate 256 fun i => (gfPowers poly gen 256 1).getD i 0

/-- The place of the first byte of a list that has the number `a`. -/
def placeOf (a : Nat) : List Byte → Nat
  | [] => 0
  | v :: vs => if v.toNat == a then 0 else placeOf a vs + 1

/-- `LOG` as `gf_build_tables` builds it: entry a, a ≠ 0, is the i in 0..254 with `gen^i = a`; entry 0 stays undefined
(R121, 10_state.md R50), a free value: notes/assumptions/2.md. -/
def gfBuildLog (poly : BitVec 9) (gen : Byte) : Vector Byte 256 :=
  tabulate 256 fun a => if a = 0 then Config.logOfZero else BitVec.ofNat 8 (placeOf a (gfPowers poly gen 255 1))

/-- The tables of `gf_build_tables(poly, gen)` (R121); they are what R121 returns when `gfTablesOk`. -/
def gfBuildTables (poly : BitVec 9) (gen : Byte) : FieldTables where
  alog := gfBuildAlog poly gen
  log := gfBuildLog poly gen

/-! ### The field functions -/

/-- `ALOG[i]`; every index the rules use is in 0..255. -/
def alogAt (t : FieldTables) (i : Nat) : Byte := if h : i < 256 then t.alog[i] else 0

/-- `LOG[a]`, an integer. -/
def logAt (t : FieldTables) (a : Byte) : Nat := (t.log[a.toNat]'a.isLt).toNat

/-- `gf_add(a, b)` (R122). -/
def gfAdd (a b : Byte) : Byte := a ^^^ b

/-- `gf_mul(a, b)` by the tables (R123). -/
def gfMul (t : FieldTables) (a b : Byte) : Byte :=
  if a = 0 ∨ b = 0 then 0 else alogAt t ((logAt t a + logAt t b) % 255)

/-- The inverse of a byte that is not 0: `ALOG[255 - LOG[a]]` (R124). -/
def gfInvNonzero (t : FieldTables) (a : Byte) : Byte := alogAt t (255 - logAt t a)

/-- `gf_inv(a)` (R124). -/
def gfInv (t : FieldTables) (a : Byte) : Except Failure Byte :=
  if a = 0 then .error .divisionByZero else .ok (gfInvNonzero t a)

/-- `gf_div(a, b) = gf_mul(a, gf_inv(b))` (R125). -/
def gfDiv (t : FieldTables) (a b : Byte) : Except Failure Byte := do
  return gfMul t a (← gfInv t b)

/-- `gf_pow(a, n)` (R126). -/
def gfPow (t : FieldTables) (a : Byte) (n : Nat) : Byte :=
  if n = 0 then 1 else if a = 0 then 0 else alogAt t ((logAt t a * n) % 255)

/-! ### The commands -/

/-- GFADD (R130): reads no table and never fails. -/
def execGfadd (rd rs rt : XReg) (s : State) : Outcome := runCommand s do
  done (s.setX rd (zextByte (gfAdd (s.byteOf rs) (s.byteOf rt))))

/-- GFMUL (R131). -/
def execGfmul (rd rs rt : XReg) (s : State) : Outcome := runCommand s do
  require s.status.frdy .notInitialized
  done (s.setX rd (zextByte (gfMul s.tables (s.byteOf rs) (s.byteOf rt))))

/-- GFINV (R132). -/
def execGfinv (rd rs : XReg) (s : State) : Outcome := runCommand s do
  require s.status.frdy .notInitialized
  let inverse ← gfInv s.tables (s.byteOf rs)
  done (s.setX rd (zextByte inverse))

/-- GFPOW (R133): the exponent is all 32 bits of `x[rt]`. -/
def execGfpow (rd rs rt : XReg) (s : State) : Outcome := runCommand s do
  require s.status.frdy .notInitialized
  done (s.setX rd (zextByte (gfPow s.tables (s.byteOf rs) (s.natOf rt))))

/-- GFDIV (R134). -/
def execGfdiv (rd rs rt : XReg) (s : State) : Outcome := runCommand s do
  require s.status.frdy .notInitialized
  let quotient ← gfDiv s.tables (s.byteOf rs) (s.byteOf rt)
  done (s.setX rd (zextByte quotient))

end Sys2Proof.Machine
end

