-- ==== Sys2Proof/Machine/Polynomial.lean ====
section
/-! DEFINITION. The polynomial units (43_polynomial.md): polynomials as lists of bytes, "coefficients
low-degree-first", and the commands PEVAL, PMUL, PDIVMOD, PTRIM. -/

namespace Sys2Proof.Machine

/-! ### The functions -/

/-- `poly_trim(p)`: remove trailing zero elements while the length is greater than 1 (R161). -/
def polyTrim : List Byte → List Byte
  | [] => []
  | c :: cs =>
    match polyTrim cs with
    | [] => [c]
    | t :: ts => if t = 0 ∧ ts = [] then [c] else c :: t :: ts

/-- `poly_eval(p, x)` by Horner's rule, from the highest coefficient down (R162). -/
def polyEval (t : FieldTables) (p : List Byte) (x : Byte) : Byte :=
  p.foldr (fun c acc => gfAdd (gfMul t acc x) c) 0

/-- `poly_add(p, q)`: element by element, the shorter extended with zeros; not trimmed (R165). -/
def polyAdd : List Byte → List Byte → List Byte
  | [], q => q
  | p, [] => p
  | a :: p, b :: q => gfAdd a b :: polyAdd p q

/-- A polynomial times a field element, coefficient by coefficient. -/
def polyScale (t : FieldTables) (c : Byte) (p : List Byte) : List Byte := p.map (gfMul t c)

/-- The discrete convolution of R163 before its last trim: coefficient k is the sum of `p[i]·q[j]` over i + j = k.
Its length is `len p + len q - 1` for non-empty operands. -/
def polyConv (t : FieldTables) : List Byte → List Byte → List Byte
  | [], _ => []
  | [a], q => polyScale t a q
  | a :: p, q => polyAdd (polyScale t a q) (0 :: polyConv t p q)

/-- `poly_mul(p, q)` (R163). -/
def polyMul (t : FieldTables) (p q : List Byte) : List Byte := polyTrim (polyConv t (polyTrim p) (polyTrim q))

/-- Add `q` to `p` from element `k` of `p` on: `p[k+j] = gf_add(p[k+j], q[j])`. -/
def polyAddAt (k : Nat) (q p : List Byte) : List Byte := p.take k ++ (polyAdd (p.drop k) q)

/-- The last `k` turns of the long-division loop of R164: the next turn has i = dd + k - 1, and `quo` holds the
quotient's coefficients from k on. -/
def divLoop (t : FieldTables) (d : List Byte) (dd : Nat) (linv : Byte) :
    Nat → List Byte → List Byte → List Byte × List Byte
  | 0, rem, quo => (quo, rem)
  | k + 1, rem, quo =>
    let c := gfMul t (rem.getD (dd + k) 0) linv
    divLoop t d dd linv k (polyAddAt k (polyScale t c d) rem) (c :: quo)

/-- `poly_divmod` of trimmed operands whose divisor is not the zero polynomial (R164). -/
def divTrimmed (t : FieldTables) (p d : List Byte) : List Byte × List Byte :=
  let dd := d.length - 1
  if p.length - 1 < dd then ([0], p)
  else
    let linv := gfInvNonzero t (d.getD dd 0)
    let result := divLoop t d dd linv (p.length - dd) p []
    (polyTrim result.1, polyTrim (if dd ≥ 1 then result.2.take dd else [0]))

/-- `poly_divmod(p, d)` (R164). -/
def polyDivmod (t : FieldTables) (p d : List Byte) : Except Failure (List Byte × List Byte) := do
  require (polyTrim d ≠ [0]) .invalidParameters
  return divTrimmed t (polyTrim p) (polyTrim d)

/-! ### The commands -/

/-- PEVAL (R170). -/
def execPeval (rd : XReg) (vs : VReg) (rt : XReg) (s : State) : Outcome := runCommand s do
  require s.status.frdy .notInitialized
  require (1 ≤ s.v[vs].length) .invalidParameters
  done (s.setX rd (zextByte (polyEval s.tables s.v[vs] (s.byteOf rt))))

/-- PMUL (R171). -/
def execPmul (vd vs vt : VReg) (s : State) : Outcome := runCommand s do
  require s.status.frdy .notInitialized
  require (1 ≤ s.v[vs].length ∧ 1 ≤ s.v[vt].length) .invalidParameters
  let r := polyMul s.tables s.v[vs] s.v[vt]
  require (r.length ≤ Config.vcap) .capacityExceeded
  done (s.setV vd r)

/-- PDIVMOD (R172): the two destinations must be different registers (R166). -/
def execPdivmod (vq vr vs vt : VReg) (s : State) : Outcome := runCommand s do
  require (vq ≠ vr) .illegalCommand
  require s.status.frdy .notInitialized
  require (1 ≤ s.v[vs].length ∧ 1 ≤ s.v[vt].length) .invalidParameters
  let qr ← polyDivmod s.tables s.v[vs] s.v[vt]
  done ((s.setV vq qr.1).setV vr qr.2)

/-- PTRIM (R173): reads no table and works before INIT. -/
def execPtrim (vd vs : VReg) (s : State) : Outcome := runCommand s do
  require (1 ≤ s.v[vs].length) .invalidParameters
  done (s.setV vd (polyTrim s.v[vs]))

end Sys2Proof.Machine
end

