-- ==== Sys2Proof/Machine/RsEncode.lean ====
section
/-! DEFINITION. The Reed-Solomon encoder unit (44_rs_encode.md): RSGEN, RSENC. `gen` is `FIELD_GEN`. -/

namespace Sys2Proof.Machine

/-- `rs_generator(r)`, the product of the factors `(x - α^i)`, i = 0..r-1 (R180). -/
def rsGenerator (t : FieldTables) (gen : Byte) (r : Nat) : List Byte :=
  (List.range r).foldl (fun g i => polyMul t g [gfPow t gen i, 1]) [1]

/-- A list brought to exactly `r` elements with zeros at its end: `(p ++ rep(0, r))[0 .. r)`. -/
def padTo (r : Nat) (p : List Byte) : List Byte := (p ++ List.replicate r 0).take r

/-- `rs_encode(data, r)` after its parameter check (R182). The generator polynomial is monic and so never the zero
polynomial: the division cannot fail. -/
def rsEncodeWord (t : FieldTables) (gen : Byte) (data : List Byte) (r : Nat) : List Byte :=
  let m := List.replicate r 0 ++ data.reverse
  let rem := (divTrimmed t (polyTrim m) (polyTrim (rsGenerator t gen r))).2
  data ++ (padTo r rem).reverse

/-- RSGEN (R183). -/
def execRsgen (vd : VReg) (rt : XReg) (s : State) : Outcome := runCommand s do
  require s.status.frdy .notInitialized
  require (s.natOf rt ≤ Config.parityMax) .invalidParameters
  done (s.setV vd (rsGenerator s.tables s.fieldGen (s.natOf rt)))

/-- RSENC (R184): `k + r` is on unbounded integers (R181). -/
def execRsenc (vd vs : VReg) (rt : XReg) (s : State) : Outcome := runCommand s do
  require s.status.frdy .notInitialized
  require (0 < s.v[vs].length ∧ s.v[vs].length + s.natOf rt ≤ Config.nMax) .invalidParameters
  done (s.setV vd (rsEncodeWord s.tables s.fieldGen s.v[vs] (s.natOf rt)))

end Sys2Proof.Machine
end

