-- ==== Sys2Proof/Machine/RsDecode.lean ====
section
/-! DEFINITION. The Reed-Solomon decoder units (45_rs_decode.md): RSSYN, RSLOC, RSEVAL, RSCHIEN, RSFORN, RSDEC,
RSDECE. Position i of a word of n symbols carries the coefficient of x^(n-1-i) (R190). -/

namespace Sys2Proof.Machine

/-! ### The step functions -/

/-- `rs_syndromes(recv, r)`: `S_j = R(α^j)`, j = 0..r-1, never trimmed (R192). -/
def rsSyndromes (t : FieldTables) (gen : Byte) (recv : List Byte) (r : Nat) : List Byte :=
  (List.range r).map fun j => polyEval t recv.reverse (gfPow t gen j)

/-- The variables of the Berlekamp-Massey loop: `C`, `B`, `L`, `mm` and `b` (R193). -/
structure BmVars where
  conn : List Byte
  prev : List Byte
  len : Nat
  shift : Nat
  prevDisc : Byte
  deriving DecidableEq, Repr

/-- The discrepancy `d` of turn i: `T[i]` plus the sum of `C[j]·T[i-j]` over j = 1..L with j < len C (R193). -/
def bmDiscrepancy (t : FieldTables) (syn : List Byte) (z : BmVars) (i : Nat) : Byte :=
  (List.range z.len).foldl
    (fun d j => if j + 1 < z.conn.length then gfAdd d (gfMul t (z.conn.getD (j + 1) 0) (syn.getD (i - (j + 1)) 0)) else d)
    (syn.getD i 0)

/-- Turn i of the loop of R193. `b` is never 0, so `gf_div(d, b)` is `d` times the inverse. -/
def bmTurn (t : FieldTables) (syn : List Byte) (z : BmVars) (i : Nat) : BmVars :=
  let d := bmDiscrepancy t syn z i
  if d = 0 then { z with shift := z.shift + 1 }
  else
    let coef := gfMul t d (gfInvNonzero t z.prevDisc)
    let adj := List.replicate z.shift 0 ++ polyScale t coef z.prev
    if 2 * z.len ≤ i then
      { conn := polyAdd z.conn adj, prev := z.conn, len := i + 1 - z.len, shift := 1, prevDisc := d }
    else { z with conn := polyAdd z.conn adj, shift := z.shift + 1 }

/-- `rs_berlekamp_massey(T)`: the locator polynomial and its length (R193). -/
def rsBerlekampMassey (t : FieldTables) (syn : List Byte) : List Byte × Nat :=
  let z := (List.range syn.length).foldl (bmTurn t syn) { conn := [1], prev := [1], len := 0, shift := 1, prevDisc := 1 }
  (polyTrim z.conn, z.len)

/-- `rs_evaluator(S, Ψ)`: `S(x)·Ψ(x) mod x^m`, m = len S, canonical (R194). -/
def rsEvaluator (t : FieldTables) (syn psi : List Byte) : List Byte :=
  if syn = [] then [0] else polyTrim ((polyConv t syn psi).take syn.length)

/-- `ALOG[(255 - d) mod 255]`, the inverse of the locator `α^d` (R195, R197). -/
def locatorInverse (t : FieldTables) (d : Nat) : Byte := alogAt t ((255 - d) % 255)

/-- `rs_chien(Λ)`: the degrees d with `Λ(α^(-d)) = 0`, ascending (R195). -/
def rsChien (t : FieldTables) (lam : List Byte) : List Nat :=
  (List.range 255).filter fun d => polyEval t lam (locatorInverse t d) = 0

/-- The coefficients of the formal derivative from coefficient `i` of the polynomial on: `P[i]` for odd i, else 0. -/
def derivFrom : Nat → List Byte → List Byte
  | _, [] => []
  | i, c :: cs => (if i % 2 = 1 then c else 0) :: derivFrom (i + 1) cs

/-- `poly_deriv(P)` in characteristic 2 (R196): length `max(len P - 1, 1)`. -/
def polyDeriv (p : List Byte) : List Byte :=
  match derivFrom 1 p.tail with
  | [] => [0]
  | c :: cs => c :: cs

/-- The magnitude at degree d: `X · (Ω(X⁻¹) / Ψ'(X⁻¹))`, X = α^d (R197). -/
def rsMagnitude (t : FieldTables) (om psi : List Byte) (d : Nat) : Except Failure Byte := do
  let xi := locatorInverse t d
  return gfMul t (alogAt t d) (← gfDiv t (polyEval t om xi) (polyEval t (polyDeriv psi) xi))

/-- `rs_forney(Ω, Ψ, locs)`: one magnitude per location, in order; the first zero denominator fails (R197). -/
def rsForney (t : FieldTables) (om psi : List Byte) : List Nat → Except Failure (List Byte)
  | [] => .ok []
  | d :: ds => do
    let m ← rsMagnitude t om psi d
    let ms ← rsForney t om psi ds
    return m :: ms

/-- `rs_erasure_locator(E, n)`: the product of `(1 - α^(n-1-p)·x)` over the positions p of E (R198). -/
def rsErasureLocator (t : FieldTables) (n : Nat) (erased : List Byte) : List Byte :=
  erased.foldl (fun g p => polyMul t g [1, alogAt t (n - 1 - p.toNat)]) [1]

/-! ### The whole decoder -/

/-- The received word with 0 at every erased position (R200). -/
def eraseAll (recv erased : List Byte) : List Byte := erased.foldl (fun w p => w.set p.toNat 0) recv

/-- Add magnitude m to the symbol of degree d, for each pair in order (R200). -/
def correctAll (w : List Byte) (n : Nat) (errata : List (Nat × Byte)) : List Byte :=
  errata.foldl (fun w dm => w.set (n - 1 - dm.1) (gfAdd (w.getD (n - 1 - dm.1) 0) dm.2)) w

/-- A failure of the Forney step inside the decoder is reported as `UncorrectableError` (R200). -/
def asUncorrectable {α : Type} : Except Failure α → Except Failure α
  | .ok a => .ok a
  | .error _ => .error .uncorrectableError

/-- `rs_decode(recv, r, E)` (R200). -/
def rsDecode (t : FieldTables) (gen : Byte) (recv : List Byte) (r : Nat) (erased : List Byte) :
    Except Failure (List Byte) := do
  let n := recv.length
  require (r < n ∧ n ≤ Config.nMax) .invalidParameters
  require ((∀ p ∈ erased, p.toNat < n) ∧ erased.Nodup) .invalidParameters
  let e := erased.length
  require (e ≤ r) .erasureLimitExceeded
  let w := eraseAll recv erased
  let syn := rsSyndromes t gen w r
  let gamma := rsErasureLocator t n erased
  let modified := padTo r (rsEvaluator t syn gamma)
  let bm := rsBerlekampMassey t (modified.drop e)
  require (e + 2 * bm.2 ≤ r) .erasureLimitExceeded
  let roots := rsChien t bm.1
  require (roots.length = bm.2) .uncorrectableError
  require (∀ d ∈ roots, d < n ∧ ∀ p ∈ erased, d ≠ n - 1 - p.toNat) .uncorrectableError
  let psi := polyMul t bm.1 gamma
  let om := rsEvaluator t syn psi
  let locs := erased.map (fun p => n - 1 - p.toNat) ++ roots
  let mags ← asUncorrectable (rsForney t om psi locs)
  let fixed := correctAll w n (locs.zip mags)
  require (∀ c ∈ rsSyndromes t gen fixed r, c = 0) .uncorrectableError
  return fixed.take (n - r)

/-! ### The commands -/

/-- RSSYN (R210). -/
def execRssyn (vd vs : VReg) (rt : XReg) (s : State) : Outcome := runCommand s do
  require s.status.frdy .notInitialized
  require (s.natOf rt < s.v[vs].length ∧ s.v[vs].length ≤ Config.nMax) .invalidParameters
  done (s.setV vd (rsSyndromes s.tables s.fieldGen s.v[vs] (s.natOf rt)))

/-- RSLOC (R211). -/
def execRsloc (vd vs : VReg) (rc : XReg) (s : State) : Outcome := runCommand s do
  require s.status.frdy .notInitialized
  let bm := rsBerlekampMassey s.tables s.v[vs]
  require (bm.1.length ≤ Config.vcap) .capacityExceeded
  done ((s.setV vd bm.1).setX rc (BitVec.ofNat 32 bm.2))

/-- RSEVAL (R212): the syndrome operand may be empty. -/
def execRseval (vd vs vt : VReg) (s : State) : Outcome := runCommand s do
  require s.status.frdy .notInitialized
  require (1 ≤ s.v[vt].length) .invalidParameters
  done (s.setV vd (rsEvaluator s.tables s.v[vs] s.v[vt]))

/-- RSCHIEN (R213). -/
def execRschien (vd vs : VReg) (rc : XReg) (s : State) : Outcome := runCommand s do
  require s.status.frdy .notInitialized
  require (1 ≤ s.v[vs].length) .invalidParameters
  let roots := rsChien s.tables s.v[vs]
  done ((s.setV vd (roots.map (BitVec.ofNat 8))).setX rc (BitVec.ofNat 32 roots.length))

/-- RSFORN (R214). -/
def execRsforn (vd vs vt vu : VReg) (s : State) : Outcome := runCommand s do
  require s.status.frdy .notInitialized
  require (1 ≤ s.v[vs].length ∧ 1 ≤ s.v[vt].length) .invalidParameters
  require (∀ d ∈ s.v[vu], d.toNat ≤ 254) .invalidParameters
  let mags ← rsForney s.tables s.v[vs] s.v[vt] (s.v[vu].map BitVec.toNat)
  done (s.setV vd mags)

/-- RSDEC, the decoder with the erasure positions absent (R215). -/
def execRsdec (vd vs : VReg) (rt : XReg) (s : State) : Outcome := runCommand s do
  require s.status.frdy .notInitialized
  let data ← rsDecode s.tables s.fieldGen s.v[vs] (s.natOf rt) []
  done (s.setV vd data)

/-- RSDECE, the decoder with the erasure positions supplied (R204, R216). -/
def execRsdece (vd vs : VReg) (rt : XReg) (ve : VReg) (s : State) : Outcome := runCommand s do
  require s.status.frdy .notInitialized
  let data ← rsDecode s.tables s.fieldGen s.v[vs] (s.natOf rt) s.v[ve]
  done (s.setV vd data)

end Sys2Proof.Machine
end

