-- ==== Sys2Proof/Machine/System.lean ====
section
/-! DEFINITION. The system and scalar-move commands (40_system_and_move.md): NOP, INIT, CSRR, CSRW, RD, LI, LIH, MOV,
TBLRD. -/

namespace Sys2Proof.Machine

/-- NOP (R100). -/
def execNop (s : State) : Outcome := runCommand s do
  done s

/-- INIT (R101): builds the field tables, or fails the startup assertion (R102). -/
def execInit (s : State) : Outcome := runCommand s do
  require (gfTablesOk s.fieldPoly s.fieldGen) .invalidParameters
  done { s with tables := gfBuildTables s.fieldPoly s.fieldGen, status := { s.status with frdy := true } }

/-- `require csr is a number of R46 else IllegalCommand` (R103, R104). -/
def namedCsr (csr : Byte) : Except Failure Csr :=
  match csrOfNumber csr with
  | none => .error .illegalCommand
  | some c => .ok c

/-- CSRR (R103): the value before this command completes. -/
def execCsrr (rd : XReg) (csr : Byte) (s : State) : Outcome := runCommand s do
  let c ← namedCsr csr
  done (s.setX rd (s.readCsr c))

/-- The write of `w` to a control register that CSRW may name (R104). The three read-only registers were refused
before.
A 1 in the reserved bits 3:2 of `STATUS` is refused, as 10_state.md R31 and R32 and 60_exceptions.md R263 say of reserved
bits; "`w[7:0]` is ignored" (R34) is read as said of the read-only fields `FRDY`, `CRDY` and `LAST`. The spec's texts
differ here. DESIGN CHOICE, unsafe: notes/assumptions/13.md. -/
def writeCsr (s : State) (w : Word) : Csr → Except Failure Done
  | .status => do
    require (w.extractLsb' 2 2 = 0 ∧ w.extractLsb' 16 16 = 0) .invalidParameters
    done { s with status := clearSticky s.status w }
  | .crcCfg => do
    require (w.extractLsb' 6 2 = 0 ∧ w.extractLsb' 10 22 = 0) .invalidParameters
    done { s with crcCfg := w }.clearCrdy
  | .crcPoly => done { s with crcPoly := w }.clearCrdy
  | .crcInit => done { s with crcInit := w }.clearCrdy
  | .crcXorout => done { s with crcXorout := w }.clearCrdy
  | .crcReg => do
    require s.status.crdy .notInitialized
    require (w.toNat < 2 ^ s.crcWidth) .invalidParameters
    done { s with crcReg := w }
  | .lfsrCfg => do
    require (w.extractLsb' 6 2 = 0 ∧ w.extractLsb' 9 23 = 0) .invalidParameters
    done { s with lfsrCfg := w }
  | .lfsrTaps => done { s with lfsrTaps := w }
  | .fieldPoly | .fieldGen | .lfsrState => .error .illegalCommand

/-- CSRW (R104). -/
def execCsrw (csr : Byte) (rs : XReg) (s : State) : Outcome := runCommand s do
  let c ← namedCsr csr
  require (csrWritable c) .illegalCommand
  writeCsr s s.x[rs] c

/-- RD (R105): "the only command whose response carries data"; it changes no state. -/
def execRd (rs : XReg) (s : State) : Outcome := runCommand s (.ok { state := s, data := s.x[rs] })

/-- LI (R106): clears bits 31:16. -/
def execLi (rd : XReg) (imm16 : BitVec 16) (s : State) : Outcome := runCommand s do
  done (s.setX rd (imm16.setWidth 32))

/-- LIH (R107): keeps bits 15:0. -/
def execLih (rd : XReg) (imm16 : BitVec 16) (s : State) : Outcome := runCommand s do
  done (s.setX rd (imm16 ++ s.x[rd].setWidth 16))

/-- MOV (R108). -/
def execMov (rd rs : XReg) (s : State) : Outcome := runCommand s do
  done (s.setX rd s.x[rs])

/-- One entry of a table, when the table is ready and the index is in range (R109). -/
def readTable (s : State) (i : Nat) : Table → Except Failure Word
  | .log => do
    require s.status.frdy .notInitialized
    require (i ≤ 255) .invalidParameters
    require (i ≠ 0) .invalidParameters
    return zextByte (s.tables.log.getD i 0)
  | .alog => do
    require s.status.frdy .notInitialized
    require (i ≤ 255) .invalidParameters
    return zextByte (s.tables.alog.getD i 0)
  | .crctab => do
    require s.status.crdy .notInitialized
    require (i ≤ 255) .invalidParameters
    return s.crctab.getD i 0

/-- TBLRD (R109): the index is all 32 bits of `x[rs]`. -/
def execTblrd (rd : XReg) (sel : Byte) (rs : XReg) (s : State) : Outcome := runCommand s do
  match tableOfSelector sel with
  | none => .error .illegalCommand
  | some table =>
    let entry ← readTable s (s.natOf rs) table
    done (s.setX rd entry)

end Sys2Proof.Machine
end

