-- ==== Sys2Proof/Machine/VectorMove.lean ====
section
/-! DEFINITION. The vector-register move commands (42_vector_move.md). None needs the field tables (R148). -/

namespace Sys2Proof.Machine

/-- VCLR (R140). -/
def execVclr (vd : VReg) (s : State) : Outcome := runCommand s do
  done (s.setV vd [])

/-- VPUSHI (R141). -/
def execVpushi (vd : VReg) (imm8 : Byte) (s : State) : Outcome := runCommand s do
  require (s.v[vd].length < Config.vcap) .capacityExceeded
  done (s.setV vd (s.v[vd] ++ [imm8]))

/-- VPUSH (R142). -/
def execVpush (vd : VReg) (rs : XReg) (s : State) : Outcome := runCommand s do
  require (s.v[vd].length < Config.vcap) .capacityExceeded
  done (s.setV vd (s.v[vd] ++ [s.byteOf rs]))

/-- VGET (R143). -/
def execVget (rd : XReg) (vs : VReg) (rt : XReg) (s : State) : Outcome := runCommand s do
  require (s.natOf rt < s.v[vs].length) .invalidParameters
  done (s.setX rd (zextByte (s.v[vs].getD (s.natOf rt) 0)))

/-- VLEN (R144). -/
def execVlen (rd : XReg) (vs : VReg) (s : State) : Outcome := runCommand s do
  done (s.setX rd (BitVec.ofNat 32 s.v[vs].length))

/-- VMOV (R145). -/
def execVmov (vd vs : VReg) (s : State) : Outcome := runCommand s do
  done (s.setV vd s.v[vs])

/-- VREV (R146). -/
def execVrev (vd vs : VReg) (s : State) : Outcome := runCommand s do
  done (s.setV vd s.v[vs].reverse)

/-- VSET (R147): the length is unchanged. -/
def execVset (vd : VReg) (rs rt : XReg) (s : State) : Outcome := runCommand s do
  require (s.natOf rs < s.v[vd].length) .invalidParameters
  done (s.setV vd (s.v[vd].set (s.natOf rs) (s.byteOf rt)))

end Sys2Proof.Machine
end

