-- ==== Sys2Proof/Machine/Dispatch.lean ====
section
/-! DEFINITION. The dispatch: one arm for each command, each one direct call of its meaning. -/

namespace Sys2Proof.Machine

def exec (i : Instr) (s : State) : Host.Outcome State Fault Refusal :=
  match i with
  -- system and scalar move (40_system_and_move.md)
  | .nop => Sys2Proof.Machine.execNop s
  | .init => Sys2Proof.Machine.execInit s
  | .csrr rd csr => Sys2Proof.Machine.execCsrr rd csr s
  | .csrw csr rs => Sys2Proof.Machine.execCsrw csr rs s
  | .rd rs => Sys2Proof.Machine.execRd rs s
  | .li rd imm16 => Sys2Proof.Machine.execLi rd imm16 s
  | .lih rd imm16 => Sys2Proof.Machine.execLih rd imm16 s
  | .mov rd rs => Sys2Proof.Machine.execMov rd rs s
  | .tblrd rd sel rs => Sys2Proof.Machine.execTblrd rd sel rs s
  -- field arithmetic (41_gf_arithmetic.md)
  | .gfadd rd rs rt => Sys2Proof.Machine.execGfadd rd rs rt s
  | .gfmul rd rs rt => Sys2Proof.Machine.execGfmul rd rs rt s
  | .gfinv rd rs => Sys2Proof.Machine.execGfinv rd rs s
  | .gfpow rd rs rt => Sys2Proof.Machine.execGfpow rd rs rt s
  | .gfdiv rd rs rt => Sys2Proof.Machine.execGfdiv rd rs rt s
  -- vector register moves (42_vector_move.md)
  | .vclr vd => Sys2Proof.Machine.execVclr vd s
  | .vpushi vd imm8 => Sys2Proof.Machine.execVpushi vd imm8 s
  | .vpush vd rs => Sys2Proof.Machine.execVpush vd rs s
  | .vget rd vs rt => Sys2Proof.Machine.execVget rd vs rt s
  | .vlen rd vs => Sys2Proof.Machine.execVlen rd vs s
  | .vmov vd vs => Sys2Proof.Machine.execVmov vd vs s
  | .vrev vd vs => Sys2Proof.Machine.execVrev vd vs s
  | .vset vd rs rt => Sys2Proof.Machine.execVset vd rs rt s
  -- polynomials (43_polynomial.md)
  | .peval rd vs rt => Sys2Proof.Machine.execPeval rd vs rt s
  | .pmul vd vs vt => Sys2Proof.Machine.execPmul vd vs vt s
  | .pdivmod vq vr vs vt => Sys2Proof.Machine.execPdivmod vq vr vs vt s
  | .ptrim vd vs => Sys2Proof.Machine.execPtrim vd vs s
  -- Reed-Solomon encoder (44_rs_encode.md)
  | .rsgen vd rt => Sys2Proof.Machine.execRsgen vd rt s
  | .rsenc vd vs rt => Sys2Proof.Machine.execRsenc vd vs rt s
  -- Reed-Solomon decoder (45_rs_decode.md)
  | .rssyn vd vs rt => Sys2Proof.Machine.execRssyn vd vs rt s
  | .rsloc vd vs rc => Sys2Proof.Machine.execRsloc vd vs rc s
  | .rseval vd vs vt => Sys2Proof.Machine.execRseval vd vs vt s
  | .rschien vd vs rc => Sys2Proof.Machine.execRschien vd vs rc s
  | .rsforn vd vs vt vu => Sys2Proof.Machine.execRsforn vd vs vt vu s
  | .rsdec vd vs rt => Sys2Proof.Machine.execRsdec vd vs rt s
  | .rsdece vd vs rt ve => Sys2Proof.Machine.execRsdece vd vs rt ve s
  -- CRC (46_crc.md)
  | .crcinit => Sys2Proof.Machine.execCrcinit s
  | .crcrst => Sys2Proof.Machine.execCrcrst s
  | .crcupd vs => Sys2Proof.Machine.execCrcupd vs s
  | .crcfin rd => Sys2Proof.Machine.execCrcfin rd s
  | .crc rd vs => Sys2Proof.Machine.execCrc rd vs s
  -- LFSR (47_lfsr.md)
  | .lfsrseed rs => Sys2Proof.Machine.execLfsrseed rs s
  | .lfsrstep rd => Sys2Proof.Machine.execLfsrstep rd s
  | .lfsrn rd count => Sys2Proof.Machine.execLfsrn rd count s

end Sys2Proof.Machine
end

