-- ==== Sys2Proof/Machine/Step.lean ====
section
/-! DEFINITION. One step of the block: it takes the next thing the host presents.

A command word is executed to completion and gives one response; reset puts the block into its reset state; with
nothing presented the block "holds its state and does nothing" (30_encoding.md R80, 60_exceptions.md R277,
70_reset_and_hazards.md R290, R300). -/

namespace Sys2Proof.Machine

/-- The command word `w` is executed from state `s` (30_encoding.md R91, 60_exceptions.md R279). -/
def execWord (w : Word) (s : State) : Host.Outcome State Fault Refusal :=
  match decode w with
  | .ok i => exec i s
  | .error _ => illegalWord s

/-- One step. -/
def step (s : State) : Host.Outcome State Fault Refusal :=
  match s.inputs with
  | [] => .next s
  | .reset :: rest => .next (applyReset { s with inputs := rest })
  | .command w :: rest => execWord w { s with inputs := rest }

/-- `s` with the command word `w` presented before anything else the host presents: the very next step runs it. -/
def State.withFetchWord (s : State) (nbits w : Nat) : State :=
  { s with inputs := .command (BitVec.ofNat 32 (w % 2 ^ nbits)) :: s.inputs }

end Sys2Proof.Machine
end

