-- ==== Sys2Proof/WellFormed.lean ====
section
/-! DEFINITION. The conditions on a command that are "decided at decode, from the command word alone" beyond the
match with a row (30_encoding.md R87).

A command that breaks one completes with `IllegalCommand`; its meaning makes the check first.
Every other constraint of the encoding (register numbers, immediates) is in the types of `Instr`. -/

namespace Sys2Proof

/-- R87: PDIVMOD with vq = vr; CSRR or CSRW with an undefined CSR number; CSRW to a read-only control register; TBLRD
with a table selector above 2. Every other command is well formed. -/
def wellFormed : Instr → Bool
  | .pdivmod vq vr _ _ => vq != vr
  | .csrr _ csr => (csrOfNumber csr).isSome
  | .csrw csr _ => (csrOfNumber csr).any csrWritable
  | .tblrd _ sel _ => (tableOfSelector sel).isSome
  | .nop | .init | .rd _ | .li _ _ | .lih _ _ | .mov _ _
  | .gfadd _ _ _ | .gfmul _ _ _ | .gfinv _ _ | .gfpow _ _ _ | .gfdiv _ _ _
  | .vclr _ | .vpushi _ _ | .vpush _ _ | .vget _ _ _ | .vlen _ _ | .vmov _ _ | .vrev _ _ | .vset _ _ _
  | .peval _ _ _ | .pmul _ _ _ | .ptrim _ _
  | .rsgen _ _ | .rsenc _ _ _ | .rssyn _ _ _ | .rsloc _ _ _ | .rseval _ _ _ | .rschien _ _ _ | .rsforn _ _ _ _
  | .rsdec _ _ _ | .rsdece _ _ _ _
  | .crcinit | .crcrst | .crcupd _ | .crcfin _ | .crc _ _ | .lfsrseed _ | .lfsrstep _ | .lfsrn _ _ => true

end Sys2Proof
end

