-- ==== Sys2Proof/Safety.lean ====
section
/-! DEFINITION. What claims about GFCORE are said in: the invariant of the state, what a completed command leaves, which
commands may do what (from the spec's own tables), and the arithmetic of the field and of polynomials from its
definition, without the tables. -/

namespace Sys2Proof.Machine

/-! ### The invariant -/

/-- What every step keeps. -/
structure State.Inv (s : State) : Prop where
  /-- A vector register holds at most `VCAP` elements (10_state.md R24, R25). -/
  vectorsFit : ∀ r : VReg, s.v[r].length ≤ Config.vcap
  /-- The reserved bits 7:6 and 31:10 of `CRC_CFG` read as 0 (R37). -/
  crcCfgReserved : s.crcCfg &&& 0xFFFFFCC0#32 = 0
  /-- The reserved bits 7:6 and 31:9 of `LFSR_CFG` read as 0 (R43). -/
  lfsrCfgReserved : s.lfsrCfg &&& 0xFFFFFEC0#32 = 0
  /-- `InsufficientShares` is never produced (60_exceptions.md R262). -/
  lastProduced : s.status.last ≠ .failure .insufficientShares
  /-- Bit 10 of `STATUS` is never set (60_exceptions.md R262). -/
  stickyProduced : s.status.sticky.getLsbD 2 = false
  /-- `FRDY`: the field tables are built from the parameters and verified (R32, R53). -/
  fieldTables : s.status.frdy = true →
    gfTablesOk s.fieldPoly s.fieldGen = true ∧ s.tables = gfBuildTables s.fieldPoly s.fieldGen
  /-- `CRDY`: CRCTAB was built from the current configuration, which passed the checks of CRCINIT (R42). -/
  crcTable : s.status.crdy = true → s.crcConfigOk ∧ s.crctab = crcBuildTable s.crcWidth s.crcPoly
  /-- `CRC_REG` holds W bits, upper bits zero (R41). -/
  crcRegFits : s.status.crdy = true → s.crcReg.toNat < 2 ^ s.crcWidth

/-- The field tables are ready, in a state that meets the invariant. -/
def State.FieldReady (s : State) : Prop := s.Inv ∧ s.status.frdy = true

/-- The CRC unit is ready, in a state that meets the invariant. -/
def State.CrcReady (s : State) : Prop := s.Inv ∧ s.status.crdy = true

/-! ### What a completed command leaves -/

/-- `t` is `base` after completing `OK` with this response data: `LAST` is `OK`, no sticky bit is set, one response is
produced, everything else is as in `base` (60_exceptions.md R265). -/
def OkFrom (base t : State) (data : Word) : Prop :=
  t = { base with
    status := { base.status with last := .ok }, responses := base.responses ++ [{ code := .ok, data := data }] }

/-- `t` is `s` after completing with failure `f`: `LAST` takes the code, its sticky bit is set, one response is
produced, everything else is as in `s` (R264). -/
def FailedWith (s t : State) (f : Failure) : Prop :=
  t = { s with
    status := { s.status with last := .failure f, sticky := s.status.sticky ||| 1#8 <<< (failureNumber f - 1) },
    responses := s.responses ++ [{ code := .failure f, data := 0 }] }

/-- Scalar register `rd` takes `val`; every other scalar register and everything else is unchanged. -/
structure ScalarWritten (s t : State) (rd : XReg) (val : Word) : Prop where
  value : t.x[rd] = val
  others : ∀ r : XReg, r ≠ rd → t.x[r] = s.x[r]
  frame : OkFrom { s with x := t.x } t 0

/-- Vector register `vd` takes `bs`; every other vector register and everything else is unchanged. -/
structure VectorWritten (s t : State) (vd : VReg) (bs : List Byte) : Prop where
  content : t.v[vd] = bs
  others : ∀ r : VReg, r ≠ vd → t.v[r] = s.v[r]
  frame : OkFrom { s with v := t.v } t 0

/-- Vector register `vd` takes `bs` and scalar register `rc` takes `val`; everything else is unchanged. -/
structure VectorAndScalarWritten (s t : State) (vd : VReg) (bs : List Byte) (rc : XReg) (val : Word) : Prop where
  content : t.v[vd] = bs
  otherVectors : ∀ r : VReg, r ≠ vd → t.v[r] = s.v[r]
  value : t.x[rc] = val
  otherScalars : ∀ r : XReg, r ≠ rc → t.x[r] = s.x[r]
  frame : OkFrom { s with x := t.x, v := t.v } t 0

/-- Vector registers `vq` and `vr` take `q` and `r`; everything else is unchanged. -/
structure TwoVectorsWritten (s t : State) (vq : VReg) (q : List Byte) (vr : VReg) (r : List Byte) : Prop where
  first : t.v[vq] = q
  second : t.v[vr] = r
  others : ∀ i : VReg, i ≠ vq → i ≠ vr → t.v[i] = s.v[i]
  frame : OkFrom { s with v := t.v } t 0

/-- `s` and `s'` differ at most in tables that are not ready (10_state.md R53). -/
def SameButUnreadyTables (s s' : State) : Prop :=
  s' = { s with tables := s'.tables, crctab := s'.crctab } ∧
    (s.status.frdy = true → s'.tables = s.tables) ∧ (s.status.crdy = true → s'.crctab = s.crctab)

/-! ### Which commands may do what -/

/-- The scalar destinations of a command: its `rd` or `rc` (10_state.md R21, 30_encoding.md R84). -/
def scalarDests : Instr → List XReg
  | .csrr rd _ | .li rd _ | .lih rd _ | .mov rd _ | .tblrd rd _ _ => [rd]
  | .gfadd rd _ _ | .gfmul rd _ _ | .gfinv rd _ | .gfpow rd _ _ | .gfdiv rd _ _ => [rd]
  | .vget rd _ _ | .vlen rd _ | .peval rd _ _ => [rd]
  | .rsloc _ _ rc | .rschien _ _ rc => [rc]
  | .crcfin rd | .crc rd _ | .lfsrstep rd | .lfsrn rd _ => [rd]
  | .nop | .init | .csrw _ _ | .rd _ | .vclr _ | .vpushi _ _ | .vpush _ _ | .vmov _ _ | .vrev _ _ | .vset _ _ _ => []
  | .pmul _ _ _ | .pdivmod _ _ _ _ | .ptrim _ _ | .rsgen _ _ | .rsenc _ _ _ | .rssyn _ _ _ | .rseval _ _ _ => []
  | .rsforn _ _ _ _ | .rsdec _ _ _ | .rsdece _ _ _ _ | .crcinit | .crcrst | .crcupd _ | .lfsrseed _ => []

/-- The vector destinations of a command: its `vd`, or `vq` and `vr` (30_encoding.md R84). -/
def vectorDests : Instr → List VReg
  | .vclr vd | .vpushi vd _ | .vpush vd _ | .vmov vd _ | .vrev vd _ | .vset vd _ _ => [vd]
  | .pmul vd _ _ | .ptrim vd _ => [vd]
  | .pdivmod vq vr _ _ => [vq, vr]
  | .rsgen vd _ | .rsenc vd _ _ | .rssyn vd _ _ | .rsloc vd _ _ | .rseval vd _ _ | .rschien vd _ _ => [vd]
  | .rsforn vd _ _ _ | .rsdec vd _ _ | .rsdece vd _ _ _ => [vd]
  | .nop | .init | .csrr _ _ | .csrw _ _ | .rd _ | .li _ _ | .lih _ _ | .mov _ _ | .tblrd _ _ _ => []
  | .gfadd _ _ _ | .gfmul _ _ _ | .gfinv _ _ | .gfpow _ _ _ | .gfdiv _ _ _ | .vget _ _ _ | .vlen _ _ => []
  | .peval _ _ _ | .crcinit | .crcrst | .crcupd _ | .crcfin _ | .crc _ _ | .lfsrseed _ | .lfsrstep _ | .lfsrn _ _ => []

/-- The failures a command can produce: the table of 60_exceptions.md R263 ("A command not listed under a code cannot
produce it"). -/
def raisable : Instr → List Failure
  | .nop | .rd _ | .li _ _ | .lih _ _ | .mov _ _ | .gfadd _ _ _ | .vclr _ | .vlen _ _ | .vmov _ _ | .vrev _ _ => []
  | .init => [.invalidParameters]
  | .csrr _ _ => [.illegalCommand]
  | .csrw _ _ => [.illegalCommand, .notInitialized, .invalidParameters]
  | .tblrd _ _ _ => [.illegalCommand, .notInitialized, .invalidParameters]
  | .gfmul _ _ _ | .gfpow _ _ _ => [.notInitialized]
  | .gfinv _ _ | .gfdiv _ _ _ => [.notInitialized, .divisionByZero]
  | .vpushi _ _ | .vpush _ _ => [.capacityExceeded]
  | .vget _ _ _ | .vset _ _ _ => [.invalidParameters]
  | .peval _ _ _ => [.notInitialized, .invalidParameters]
  | .pmul _ _ _ => [.notInitialized, .invalidParameters, .capacityExceeded]
  | .pdivmod _ _ _ _ => [.illegalCommand, .notInitialized, .invalidParameters]
  | .ptrim _ _ => [.invalidParameters]
  | .rsgen _ _ | .rsenc _ _ _ | .rssyn _ _ _ => [.notInitialized, .invalidParameters]
  | .rsloc _ _ _ => [.notInitialized, .capacityExceeded]
  | .rseval _ _ _ | .rschien _ _ _ => [.notInitialized, .invalidParameters]
  | .rsforn _ _ _ _ => [.notInitialized, .invalidParameters, .divisionByZero]
  | .rsdec _ _ _ | .rsdece _ _ _ _ => [.notInitialized, .invalidParameters, .erasureLimitExceeded, .uncorrectableError]
  | .crcinit => [.invalidParameters]
  | .crcrst | .crcupd _ | .crcfin _ | .crc _ _ => [.notInitialized]
  | .lfsrseed _ | .lfsrstep _ | .lfsrn _ _ => [.invalidParameters]

/-- The commands that fail with `NotInitialized` while `FRDY = 0` (R263). -/
def needsFieldTables : Instr → Bool
  | .gfmul _ _ _ | .gfinv _ _ | .gfpow _ _ _ | .gfdiv _ _ _ | .peval _ _ _ | .pmul _ _ _ | .pdivmod _ _ _ _ => true
  | .rsgen _ _ | .rsenc _ _ _ | .rssyn _ _ _ | .rsloc _ _ _ | .rseval _ _ _ | .rschien _ _ _ => true
  | .rsforn _ _ _ _ | .rsdec _ _ _ | .rsdece _ _ _ _ => true
  | .tblrd _ sel _ => sel == 0 || sel == 1
  | .nop | .init | .csrr _ _ | .csrw _ _ | .rd _ | .li _ _ | .lih _ _ | .mov _ _ | .gfadd _ _ _ => false
  | .vclr _ | .vpushi _ _ | .vpush _ _ | .vget _ _ _ | .vlen _ _ | .vmov _ _ | .vrev _ _ | .vset _ _ _ => false
  | .ptrim _ _ | .crcinit | .crcrst | .crcupd _ | .crcfin _ | .crc _ _ => false
  | .lfsrseed _ | .lfsrstep _ | .lfsrn _ _ => false

/-- The commands that fail with `NotInitialized` while `CRDY = 0` (R263). -/
def needsCrcTable : Instr → Bool
  | .crcrst | .crcupd _ | .crcfin _ | .crc _ _ => true
  | .csrw csr _ => csr == 0x14
  | .tblrd _ sel _ => sel == 2
  | .nop | .init | .csrr _ _ | .rd _ | .li _ _ | .lih _ _ | .mov _ _ => false
  | .gfadd _ _ _ | .gfmul _ _ _ | .gfinv _ _ | .gfpow _ _ _ | .gfdiv _ _ _ => false
  | .vclr _ | .vpushi _ _ | .vpush _ _ | .vget _ _ _ | .vlen _ _ | .vmov _ _ | .vrev _ _ | .vset _ _ _ => false
  | .peval _ _ _ | .pmul _ _ _ | .pdivmod _ _ _ _ | .ptrim _ _ => false
  | .rsgen _ _ | .rsenc _ _ _ | .rssyn _ _ _ | .rsloc _ _ _ | .rseval _ _ _ | .rschien _ _ _ => false
  | .rsforn _ _ _ _ | .rsdec _ _ _ | .rsdece _ _ _ _ | .crcinit | .lfsrseed _ | .lfsrstep _ | .lfsrn _ _ => false

/-- An input is a command word. -/
def Input.isCommand : Input → Bool
  | .command _ => true
  | .reset => false

/-- An input that clears sticky bits: reset, or a word that is a CSRW to `STATUS` (10_state.md R34). -/
def Input.clearsSticky : Input → Bool
  | .reset => true
  | .command w =>
    match decode w with
    | .ok (.csrw csr _) => csr == 0x00
    | _ => false

/-! ### The field and its polynomials from the definition, without the tables -/

/-- `a` multiplied with itself `n` times by `gf_mulx`; 1 for n = 0 (41_gf_arithmetic.md R120, R126). -/
def gfPowx (poly : BitVec 9) (a : Byte) : Nat → Byte
  | 0 => 1
  | n + 1 => gfMulx poly (gfPowx poly a n) a

/-- The sum of field elements: their XOR. -/
def xorSum (l : List Byte) : Byte := l.foldr (fun a acc => a ^^^ acc) 0

/-- The coefficient of x^k; 0 past the end (00_scope.md R9). -/
def coeff (p : List Byte) (k : Nat) : Byte := p.getD k 0

/-- `Σ p[i]·x^i` (43_polynomial.md R162). -/
def polyValue (poly : BitVec 9) (p : List Byte) (x : Byte) : Byte :=
  xorSum ((List.range p.length).map fun i => gfMulx poly (coeff p i) (gfPowx poly x i))

/-- The coefficient of x^k of the product of two polynomials (43_polynomial.md R163). -/
def convCoeff (poly : BitVec 9) (p q : List Byte) (k : Nat) : Byte :=
  xorSum ((List.range (k + 1)).map fun i => gfMulx poly (coeff p i) (coeff q (k - i)))

/-- Canonical form: "no trailing zero coefficient except the explicit zero polynomial" (00_scope.md R11). -/
def Canonical (p : List Byte) : Prop := p = [0] ∨ ∃ c, p.getLast? = some c ∧ c ≠ 0

/-- Every coefficient is zero. -/
def ZeroPoly (p : List Byte) : Prop := ∀ c ∈ p, c = 0

/-- The formal derivative: coefficient i is that of x^(i+1) for even i, else 0 (45_rs_decode.md R196). -/
def formalDeriv (p : List Byte) : List Byte :=
  (List.range (p.length - 1)).map fun i => if i % 2 = 0 then coeff p (i + 1) else 0

/-- `α^i` by the definition. -/
def State.alpha (s : State) (i : Nat) : Byte := gfPowx s.fieldPoly s.fieldGen i

/-- The word polynomial has the roots `α^0 .. α^(r-1)`: all its syndromes are 0; position i carries the coefficient of
x^(n-1-i) (45_rs_decode.md R190, 44_rs_encode.md R185). -/
def State.IsCodeword (s : State) (r : Nat) (c : List Byte) : Prop :=
  ∀ j < r, polyValue s.fieldPoly c.reverse (s.alpha j) = 0

/-- The number of positions where two words differ, the erased positions left out (45_rs_decode.md R201). -/
def errorCount (recv c erased : List Byte) : Nat :=
  ((List.range recv.length).filter fun i => coeff recv i ≠ coeff c i ∧ BitVec.ofNat 8 i ∉ erased).length

/-- The erasure positions are positions of a word of n symbols, none twice (45_rs_decode.md R204). -/
def LegalErasures (n : Nat) (erased : List Byte) : Prop := (∀ p ∈ erased, p.toNat < n) ∧ erased.Nodup

/-- `Σ_{j=0}^{L} C[j]·T[i-j] = 0` for every i with `L ≤ i < len T`: the recurrence of length L with the coefficients C
gives every element of T from index L on (45_rs_decode.md R193). -/
def RecurrenceHolds (poly : BitVec 9) (lam : List Byte) (len : Nat) (syn : List Byte) : Prop :=
  ∀ i, len ≤ i → i < syn.length →
    xorSum ((List.range (len + 1)).map fun j => gfMulx poly (coeff lam j) (coeff syn (i - j))) = 0

/-- Λ is canonical, starts with 1, has degree at most L ≤ m, its recurrence of length L generates the sequence, "and no
shorter recurrence has that property" (45_rs_decode.md R193). -/
structure GeneratesFrom (poly : BitVec 9) (lam : List Byte) (len : Nat) (syn : List Byte) : Prop where
  canonical : Canonical lam
  start : coeff lam 0 = 1
  degree : lam.length ≤ len + 1
  length : len ≤ syn.length
  recurrence : RecurrenceHolds poly lam len syn
  shortest : ∀ (other : List Byte) (shorter : Nat), shorter < len → coeff other 0 = 1 →
    ¬ RecurrenceHolds poly other shorter syn

/-- The startup assertion from the definition (40_system_and_move.md R102), for a polynomial of degree 8 (00_scope.md
R6, notes/assumptions/14.md). -/
def State.GeneratorOk (s : State) : Prop :=
  s.fieldPoly.getLsbD 8 = true ∧ (∀ i < 255, ∀ j < 255, s.alpha i = s.alpha j → i = j) ∧ s.alpha 255 = 1

/-- One byte folded in by bit-serial division (46_crc.md R225). -/
def crcBitSerial (W : Nat) (refin : Bool) (poly reg : Word) (b : Byte) : Word :=
  crcShifts W poly 8 (reg ^^^ zextByte (crcInputByte refin b) <<< (W - 8))

/-- The LFSR configuration is legal (47_lfsr.md R241, the first two lines). -/
def State.LfsrShape (s : State) : Prop :=
  1 ≤ s.lfsrWidth ∧ s.lfsrWidth ≤ 32 ∧ s.lfsrTaps.toNat < 2 ^ s.lfsrWidth

/-- The LFSR can be stepped (R241, all three lines). -/
def State.LfsrReady (s : State) : Prop := s.LfsrShape ∧ s.lfsrState.toNat < 2 ^ s.lfsrWidth

end Sys2Proof.Machine
end

