-- ==== Sys2Proof/Certificates/Slice0/Obligations.lean ====
section
/-! DEFINITION. The statements for the provers, by group: encoding; the whole machine; system commands; field
arithmetic; vector registers; polynomials; Reed-Solomon; CRC; LFSR. -/

open Sys2Proof Sys2Proof.Machine

/-! ### Encoding -/

/-- 30_encoding.md R91: decoding an encoded command gives it back, with every operand at every value. -/
def Obligations.DecodeOfEncodeIsIdentity : Prop :=
  ∀ i : Instr, decode (encode i) = .ok i

/-- R82, R84, R91: each word has one meaning and no bit of it is dropped: encoding a decoded word gives the word back. -/
def Obligations.EncodeOfDecodeIsIdentity : Prop :=
  ∀ (w : Word) (i : Instr), decode w = .ok i → encode i = w

/-- R84, R86: the decoder is the opcode map: a word decodes to a command exactly when it matches that command's row. -/
def Obligations.DecodeFollowsOpcodeMap : Prop :=
  (∀ (w : Word) (i : Instr), decode w = .ok i →
    ∃ row ∈ opcodeRows, row.mnemonic = mnemonic i ∧ w &&& row.mask = row.pattern) ∧
  (∀ (w : Word), ∀ row ∈ opcodeRows, w &&& row.mask = row.pattern →
    ∃ i, decode w = .ok i ∧ mnemonic i = row.mnemonic)

/-- R91 and 95_test_vectors.md section 2.1: words the spec writes out decode to the commands they stand for. -/
def Obligations.WorkedExampleWordsDecode : Prop :=
  decode 0x32230100 = .ok (.pdivmod 2 3 0 1) ∧ decode 0x05501DB7 = .ok (.li 5 0x1DB7) ∧
  decode 0x47412301 = .ok (.rsdece 4 1 2 3) ∧ decode 0x46643500 = .ok (.rsforn 6 4 3 5) ∧
  decode 0x03050011 = .ok (.csrw 0x11 5) ∧ decode 0x08650002 = .ok (.tblrd 6 2 5) ∧
  decode 0x47412300 = .error .mustBeZero ∧ decode 0x47412302 = .error .erasureTag ∧
  decode 0x20800000 = .error .vectorField ∧ decode 0x09000000 = .error (.unassignedOpcode 0x09)

/-! ### The whole machine -/

/-- R80, R91: a step takes the next command word from the port and runs the command it decodes to.
Three things here are the model's choice, not the spec's: that the port is a list in State (notes/assumptions/3.md, DESIGN
CHOICE), the second clause, on what `withFetchWord` presents (notes/assumptions/5.md, DESIGN CHOICE), and the third, the
step with nothing presented (notes/assumptions/7.md, DEDUCED). -/
def Obligations.StepRunsTheCommandPresented : Prop :=
  (∀ (s : State) (w : Word) (rest : List Input) (i : Instr),
    s.inputs = .command w :: rest → decode w = .ok i → step s = exec i { s with inputs := rest }) ∧
  (∀ (s : State) (i : Instr), step (s.withFetchWord 32 (encode i).toNat) = exec i s) ∧
  (∀ s : State, s.inputs = [] → step s = .next s)

/-- 70_reset_and_hazards.md R290, R291: the reset event, from any state, leaves the values the spec gives for reset,
and no response. What stands in the ports beside it is the model's (notes/assumptions/3.md). -/
def Obligations.ResetEventGivesResetState : Prop :=
  ∀ (s : State) (rest : List Input), s.inputs = .reset :: rest →
    ∃ t, step s = .next t ∧
      (∀ r : XReg, t.x[r] = 0) ∧ (∀ r : VReg, t.v[r] = []) ∧
      t.status = { frdy := false, crdy := false, last := .ok, sticky := 0 } ∧
      t.fieldPoly = s.fieldPoly ∧ t.fieldGen = s.fieldGen ∧
      t.crcCfg = 0 ∧ t.crcPoly = 0 ∧ t.crcInit = 0 ∧ t.crcXorout = 0 ∧ t.crcReg = 0 ∧
      t.lfsrCfg = 0 ∧ t.lfsrTaps = 0 ∧ t.lfsrState = 0 ∧
      t.inputs = rest ∧ t.responses = s.responses

/-- The state right after reset meets the invariant. -/
def Obligations.ResetStateMeetsInvariant : Prop := State.reset.Inv

/-- Every step keeps the invariant, from every state that meets it: vector lengths, reserved bits, the failure that is
never produced, and the agreement of the ready flags with the tables and the configuration. -/
def Obligations.StepKeepsInvariant : Prop :=
  ∀ s t : State, s.Inv → step s = .next t → t.Inv

/-- 30_encoding.md R80, 60_exceptions.md R260: "none is dropped, duplicated or reordered": from every state, as many
steps as inputs are presented take them all and answer each command word with exactly one more response. -/
def Obligations.RunAnswersEveryCommand : Prop :=
  ∀ s : State, ∃ (t : State) (new : List Response),
    Sys2Proof.core.run s.inputs.length s = .next t ∧ t.inputs = [] ∧ t.responses = s.responses ++ new ∧
      new.length = (s.inputs.filter Input.isCommand).length

/-- 60_exceptions.md R264: a command that completes with a failure code changes nothing but `STATUS.LAST` and its
sticky bit, whether its word is a command or not. -/
def Obligations.FailureChangesOnlyStatus : Prop :=
  (∀ (i : Instr) (s t : State) (f : Failure),
    exec i s = .next t → t.status.last = .failure f → FailedWith s t f) ∧
  (∀ (s t : State) (w : Word) (rest : List Input) (f : Failure), s.inputs = .command w :: rest → step s = .next t →
    t.status.last = .failure f → FailedWith { s with inputs := rest } t f)

/-- 30_encoding.md R86, 60_exceptions.md R279: a word that matches no row completes with `IllegalCommand` and changes
nothing else. -/
def Obligations.UnmatchedWordIsIllegal : Prop :=
  ∀ (s : State) (w : Word) (rest : List Input), s.inputs = .command w :: rest →
    (∀ row ∈ opcodeRows, w &&& row.mask ≠ row.pattern) →
    ∃ t, step s = .next t ∧ FailedWith { s with inputs := rest } t .illegalCommand

/-- 10_state.md R33: every command that completes records its code in `LAST`, under the numbers of 60_exceptions.md R262;
a CSRR of `STATUS` shows the code before it. -/
def Obligations.LastRecordsEveryCompletion : Prop :=
  (∀ (s t : State) (w : Word) (rest : List Input), s.inputs = .command w :: rest → step s = .next t →
    ∃ r, t.responses = s.responses ++ [r] ∧ t.status.last = r.code ∧
      (statusWord t.status).extractLsb' 4 4 = codeBits r.code ∧
      ∀ p ∈ [(Code.ok, 0#4), (.failure .invalidParameters, 1#4), (.failure .divisionByZero, 2#4),
          (.failure .insufficientShares, 3#4), (.failure .erasureLimitExceeded, 4#4),
          (.failure .uncorrectableError, 5#4), (.failure .notInitialized, 6#4), (.failure .capacityExceeded, 7#4),
          (.failure .illegalCommand, 8#4)],
        r.code = p.1 → (statusWord t.status).extractLsb' 4 4 = p.2) ∧
  (∀ (s : State) (rd : XReg), ∃ t, exec (.csrr rd 0x00) s = .next t ∧
    t.x[rd] = statusWord s.status ∧ t.status.last = .ok)

/-- 10_state.md R34, 60_exceptions.md R262: a failure sets its sticky bit, bits 8 to 15 of `STATUS` for the codes 1 to 8;
the bits stay set until reset or until a CSRW to `STATUS` writes 1 to them. A CSRW with a 1 in a reserved bit of `STATUS`
fails (R31, R32); that bits 3:2 are among those bits, where R34 says "`w[7:0]` is ignored", is the model's choice
(notes/assumptions/13.md, DESIGN CHOICE). -/
def Obligations.StickyBitsAccumulate : Prop :=
  (∀ (s t : State) (w : Word) (rest : List Input) (f : Failure), s.inputs = .command w :: rest → step s = .next t →
    t.status.last = .failure f →
    (statusWord t.status).extractLsb' 8 8 =
      (statusWord s.status).extractLsb' 8 8 ||| 1#8 <<< (failureNumber f - 1)) ∧
  (∀ (i : Instr) (s t : State) (f : Failure), exec i s = .next t → t.status.last = .failure f →
    (statusWord t.status).extractLsb' 8 8 =
      (statusWord s.status).extractLsb' 8 8 ||| 1#8 <<< (failureNumber f - 1)) ∧
  (∀ (i : Instr) (s t : State), exec i s = .next t → t.status.last = .ok → (∀ rs, i ≠ .csrw 0x00 rs) →
    (statusWord t.status).extractLsb' 8 8 = (statusWord s.status).extractLsb' 8 8) ∧
  (∀ (i : Instr) (s t : State), exec i s = .next t →
    ∀ p ∈ [(Failure.invalidParameters, 8), (.divisionByZero, 9), (.insufficientShares, 10),
        (.erasureLimitExceeded, 11), (.uncorrectableError, 12), (.notInitialized, 13), (.capacityExceeded, 14),
        (.illegalCommand, 15)],
      t.status.last = .failure p.1 → (statusWord t.status).getLsbD p.2 = true) ∧
  (∀ (s : State) (rs : XReg), s.x[rs] &&& 0xFFFF000C = 0 →
    ∃ t, exec (.csrw 0x00 rs) s = .next t ∧
      OkFrom { s with status := { s.status with
        sticky := s.status.sticky &&& ~~~(s.x[rs].extractLsb' 8 8) } } t 0) ∧
  (∀ (s : State) (rs : XReg), s.x[rs] &&& 0xFFFF000C ≠ 0 →
    ∃ t, exec (.csrw 0x00 rs) s = .next t ∧ FailedWith s t .invalidParameters) ∧
  (∀ (s : State) (rest : List Input), s.inputs = .reset :: rest →
    ∃ t, step s = .next t ∧ (statusWord t.status).extractLsb' 8 8 = 0)

/-- 70_reset_and_hazards.md R299: `STICKY` = 0 at the end of a run in which nothing cleared it means that every
response of the run was `OK`. -/
def Obligations.StickyZeroMeansNoFailure : Prop :=
  ∀ (n : Nat) (s t : State), Sys2Proof.core.run n s = .next t →
    (∀ e ∈ s.inputs, e.clearsSticky = false) → t.status.sticky = 0 →
    ∀ r ∈ t.responses.drop s.responses.length, r.code = .ok

/-- 30_encoding.md R92: only an RD that completes `OK` answers data. -/
def Obligations.ResponseDataComesOnlyFromRd : Prop :=
  ∀ (s t : State) (w : Word) (rest : List Input), s.inputs = .command w :: rest → step s = .next t →
    ∃ r, t.responses = s.responses ++ [r] ∧ r.code = t.status.last ∧
      (∀ rs, decode w = .ok (.rd rs) → r.code = .ok → r.data = s.x[rs]) ∧
      ((∀ rs, decode w ≠ .ok (.rd rs)) → r.data = 0) ∧
      (r.code ≠ .ok → r.data = 0)

/-- 60_exceptions.md R263: "A command not listed under a code cannot produce it." -/
def Obligations.FailureCodesByCommand : Prop :=
  ∀ (i : Instr) (s t : State) (f : Failure),
    exec i s = .next t → t.status.last = .failure f → f ∈ raisable i

/-- 30_encoding.md R87: the four conditions on the command word alone that give `IllegalCommand`, in every state, and
the one that does not. -/
def Obligations.WordConditionsGiveIllegalCommand : Prop :=
  (∀ (s : State) (v vs vt : VReg), ∃ t, exec (.pdivmod v v vs vt) s = .next t ∧ FailedWith s t .illegalCommand) ∧
  (∀ (s : State) (csr : Byte) (r : XReg),
    csr ∉ [0x00#8, 0x01#8, 0x02#8, 0x10#8, 0x11#8, 0x12#8, 0x13#8, 0x14#8, 0x20#8, 0x21#8, 0x22#8] →
    (∃ t, exec (.csrr r csr) s = .next t ∧ FailedWith s t .illegalCommand) ∧
    (∃ t, exec (.csrw csr r) s = .next t ∧ FailedWith s t .illegalCommand)) ∧
  (∀ (s : State) (csr : Byte) (rs : XReg), csr ∈ [0x01#8, 0x02#8, 0x22#8] →
    ∃ t, exec (.csrw csr rs) s = .next t ∧ FailedWith s t .illegalCommand) ∧
  (∀ (s : State) (rd rs : XReg) (sel : Byte), 2 < sel.toNat →
    ∃ t, exec (.tblrd rd sel rs) s = .next t ∧ FailedWith s t .illegalCommand) ∧
  (∀ (s : State) (rd : XReg) (count : Byte), ¬ (1 ≤ count.toNat ∧ count.toNat ≤ 32) →
    ∃ t, exec (.lfsrn rd count) s = .next t ∧ FailedWith s t .invalidParameters)

/-- R87 and the model's `wellFormed`: a command completes with `IllegalCommand` exactly when it is not well formed. -/
def Obligations.IllegalExactlyWhenIllFormed : Prop :=
  ∀ (i : Instr) (s t : State), exec i s = .next t →
    (t.status.last = .failure .illegalCommand ↔ wellFormed i = false)

/-- 10_state.md R21, 60_exceptions.md R265: a register is changed only by a command that completes `OK` and names it as
a destination. -/
def Obligations.OnlyNamedDestinationsChange : Prop :=
  ∀ (i : Instr) (s t : State), exec i s = .next t →
    (∀ r : XReg, t.x[r] ≠ s.x[r] → t.status.last = .ok ∧ r ∈ scalarDests i) ∧
    (∀ r : VReg, t.v[r] ≠ s.v[r] → t.status.last = .ok ∧ r ∈ vectorDests i)

/-- 10_state.md R35 to R45, R53: which commands change the tables, the ready flags and the control registers; the
parameters never change. -/
def Obligations.TablesAndControlRegistersChangeOnlyByTheirCommands : Prop :=
  ∀ (i : Instr) (s t : State), exec i s = .next t →
    t.fieldPoly = s.fieldPoly ∧ t.fieldGen = s.fieldGen ∧ t.inputs = s.inputs ∧
    (t.tables ≠ s.tables → i = .init ∧ t.status.last = .ok) ∧
    (t.crctab ≠ s.crctab → i = .crcinit ∧ t.status.last = .ok) ∧
    (t.status.frdy ≠ s.status.frdy → i = .init ∧ t.status.frdy = true) ∧
    (t.status.crdy ≠ s.status.crdy → (i = .crcinit ∧ t.status.crdy = true) ∨
      ∃ csr rs, csr ∈ [0x10#8, 0x11#8, 0x12#8, 0x13#8] ∧ i = .csrw csr rs ∧ t.status.crdy = false) ∧
    (t.crcCfg ≠ s.crcCfg → ∃ rs, i = .csrw 0x10 rs) ∧
    (t.crcPoly ≠ s.crcPoly → ∃ rs, i = .csrw 0x11 rs) ∧
    (t.crcInit ≠ s.crcInit → ∃ rs, i = .csrw 0x12 rs) ∧
    (t.crcXorout ≠ s.crcXorout → ∃ rs, i = .csrw 0x13 rs) ∧
    (t.crcReg ≠ s.crcReg →
      i = .crcinit ∨ i = .crcrst ∨ (∃ vs, i = .crcupd vs) ∨ (∃ rd vs, i = .crc rd vs) ∨ ∃ rs, i = .csrw 0x14 rs) ∧
    (t.lfsrCfg ≠ s.lfsrCfg → ∃ rs, i = .csrw 0x20 rs) ∧
    (t.lfsrTaps ≠ s.lfsrTaps → ∃ rs, i = .csrw 0x21 rs) ∧
    (t.lfsrState ≠ s.lfsrState →
      (∃ rs, i = .lfsrseed rs) ∨ (∃ rd, i = .lfsrstep rd) ∨ ∃ rd count, i = .lfsrn rd count)

/-- 10_state.md R53: "the unspecified table content after reset is never observed": two states that differ only in
tables that are not ready step to two states that differ only so, with the same responses. -/
def Obligations.UnreadyTablesAreUnobservable : Prop :=
  ∀ s s' t : State, SameButUnreadyTables s s' → step s = .next t →
    ∃ t', step s' = .next t' ∧ SameButUnreadyTables t t'

/-- 10_state.md R53, 60_exceptions.md R266: a well-formed command that needs a table which is not ready fails with
`NotInitialized`, whatever its operands. -/
def Obligations.CommandsNeedTheirTables : Prop :=
  (∀ (i : Instr) (s : State), wellFormed i = true → needsFieldTables i = true → s.status.frdy = false →
    ∃ t, exec i s = .next t ∧ FailedWith s t .notInitialized) ∧
  (∀ (i : Instr) (s : State), wellFormed i = true → needsCrcTable i = true → s.status.crdy = false →
    ∃ t, exec i s = .next t ∧ FailedWith s t .notInitialized)

/-- 10_state.md R42: a CSRW that completes `OK` to a CRC configuration register clears `CRDY`; so `CRDY = 1` implies
that CRCTAB was built from the current configuration, which passed the checks of CRCINIT. -/
def Obligations.ConfigurationWriteClearsCrdy : Prop :=
  (∀ (s t : State) (csr : Byte) (rs : XReg), csr ∈ [0x10#8, 0x11#8, 0x12#8, 0x13#8] →
    exec (.csrw csr rs) s = .next t → t.status.last = .ok → t.status.crdy = false) ∧
  (∀ s t : State, s.Inv → step s = .next t → t.status.crdy = true →
    t.crcWidth ∈ [8, 16, 32] ∧ t.crcPoly ≠ 0 ∧ t.crcPoly.toNat < 2 ^ t.crcWidth ∧
    t.crcInit.toNat < 2 ^ t.crcWidth ∧ t.crcXorout.toNat < 2 ^ t.crcWidth ∧
    ∀ i : Fin 256, t.crctab[i] = crcTableEntry t.crcWidth t.crcPoly (BitVec.ofFin i))

/-! ### System and scalar move -/

/-- 40_system_and_move.md R100, R105 to R108: NOP, RD, LI, LIH, MOV complete in every state. -/
def Obligations.ScalarMovesComplete : Prop :=
  ∀ (s : State) (rd rs : XReg) (imm : BitVec 16),
    (∃ t, exec .nop s = .next t ∧ OkFrom s t 0) ∧
    (∃ t, exec (.rd rs) s = .next t ∧ OkFrom s t s.x[rs]) ∧
    (∃ t val, exec (.li rd imm) s = .next t ∧ ScalarWritten s t rd val ∧ val.toNat = imm.toNat) ∧
    (∃ t val, exec (.lih rd imm) s = .next t ∧ ScalarWritten s t rd val ∧
      val.toNat = imm.toNat * 2 ^ 16 + s.x[rd].toNat % 2 ^ 16) ∧
    (∃ t, exec (.mov rd rs) s = .next t ∧ ScalarWritten s t rd s.x[rs])

/-- R103, 10_state.md R32 to R46: CSRR of each of the eleven registers, and the fields of `STATUS`. -/
def Obligations.CsrrReadsEveryRegister : Prop :=
  (∀ (s : State) (rd : XReg), ∀ p ∈ [(0x00#8, statusWord s.status), (0x01#8, s.fieldPoly.setWidth 32),
      (0x02#8, s.fieldGen.setWidth 32), (0x10#8, s.crcCfg), (0x11#8, s.crcPoly), (0x12#8, s.crcInit),
      (0x13#8, s.crcXorout), (0x14#8, s.crcReg), (0x20#8, s.lfsrCfg), (0x21#8, s.lfsrTaps), (0x22#8, s.lfsrState)],
    ∃ t, exec (.csrr rd p.1) s = .next t ∧ ScalarWritten s t rd p.2) ∧
  (∀ st : Status,
    (statusWord st).getLsbD 0 = st.frdy ∧ (statusWord st).getLsbD 1 = st.crdy ∧
    (statusWord st).extractLsb' 2 2 = 0 ∧ (statusWord st).extractLsb' 4 4 = codeBits st.last ∧
    (statusWord st).extractLsb' 8 8 = st.sticky ∧ (statusWord st).extractLsb' 16 16 = 0)

/-- R104, 10_state.md R37 to R44: what CSRW writes to each writable register beside `STATUS`, and what it refuses; of
`CRC_REG` while `CRDY = 1` (while it is 0, CommandsNeedTheirTables). -/
def Obligations.CsrwWritesOrRefuses : Prop :=
  ∀ (s : State) (rs : XReg),
    (s.x[rs] &&& 0xFFFFFCC0 = 0 → ∃ t, exec (.csrw 0x10 rs) s = .next t ∧
      OkFrom { s with crcCfg := s.x[rs], status := { s.status with crdy := false } } t 0) ∧
    (s.x[rs] &&& 0xFFFFFCC0 ≠ 0 → ∃ t, exec (.csrw 0x10 rs) s = .next t ∧ FailedWith s t .invalidParameters) ∧
    (∃ t, exec (.csrw 0x11 rs) s = .next t ∧
      OkFrom { s with crcPoly := s.x[rs], status := { s.status with crdy := false } } t 0) ∧
    (∃ t, exec (.csrw 0x12 rs) s = .next t ∧
      OkFrom { s with crcInit := s.x[rs], status := { s.status with crdy := false } } t 0) ∧
    (∃ t, exec (.csrw 0x13 rs) s = .next t ∧
      OkFrom { s with crcXorout := s.x[rs], status := { s.status with crdy := false } } t 0) ∧
    (s.status.crdy = true → s.x[rs].toNat < 2 ^ s.crcWidth → ∃ t, exec (.csrw 0x14 rs) s = .next t ∧
      OkFrom { s with crcReg := s.x[rs] } t 0) ∧
    (s.status.crdy = true → ¬ s.x[rs].toNat < 2 ^ s.crcWidth → ∃ t, exec (.csrw 0x14 rs) s = .next t ∧
      FailedWith s t .invalidParameters) ∧
    (s.x[rs] &&& 0xFFFFFEC0 = 0 → ∃ t, exec (.csrw 0x20 rs) s = .next t ∧
      OkFrom { s with lfsrCfg := s.x[rs] } t 0) ∧
    (s.x[rs] &&& 0xFFFFFEC0 ≠ 0 → ∃ t, exec (.csrw 0x20 rs) s = .next t ∧ FailedWith s t .invalidParameters) ∧
    (∃ t, exec (.csrw 0x21 rs) s = .next t ∧ OkFrom { s with lfsrTaps := s.x[rs] } t 0)

/-- R101, R102, 41_gf_arithmetic.md R121, 10_state.md R50, R51: INIT builds the tables exactly when the startup
assertion holds; then `ALOG[i] = α^i` and `LOG` is its inverse; every nonzero byte is a power of α. That a `FIELD_POLY`
whose bit 8 is 0 (against 00_scope.md R6) fails the assertion is the model's choice (notes/assumptions/14.md). -/
def Obligations.InitBuildsFieldTables : Prop :=
  (∀ s : State, s.GeneratorOk →
    ∃ t, exec .init s = .next t ∧
      OkFrom { s with tables := t.tables, status := { s.status with frdy := true } } t 0 ∧
      (∀ i : Fin 256, t.tables.alog[i] = s.alpha i) ∧
      (∀ i < 255, logAt t.tables (s.alpha i) = i) ∧
      (∀ a : Byte, a ≠ 0 → s.alpha (logAt t.tables a) = a)) ∧
  (∀ s : State, ¬ s.GeneratorOk → ∃ t, exec .init s = .next t ∧ FailedWith s t .invalidParameters)

/-- 00_scope.md R7, R102: the spec's parameter pair passes the startup assertion and so does (0x11B, 0x03); the pairs
(0x11B, 0x02) and (0x11D, 0x01) fail it. -/
def Obligations.StartupAssertionOnNamedPairs : Prop :=
  (∀ s : State, (s.fieldPoly = 0x11D ∧ s.fieldGen = 0x02) ∨ (s.fieldPoly = 0x11B ∧ s.fieldGen = 0x03) →
    ∃ t, exec .init s = .next t ∧ t.status.last = .ok ∧ t.status.frdy = true) ∧
  (∀ s : State, (s.fieldPoly = 0x11B ∧ s.fieldGen = 0x02) ∨ (s.fieldPoly = 0x11D ∧ s.fieldGen = 0x01) →
    ∃ t, exec .init s = .next t ∧ FailedWith s t .invalidParameters)

/-- R109: TBLRD of each table, by the meaning of the tables: `α^i` (with `ALOG[255] = 1`), the logarithm, the CRC table
entry; and an index out of range. -/
def Obligations.TblrdReadsTables : Prop :=
  (∀ (s : State) (rd rs : XReg), s.FieldReady →
    (1 ≤ s.x[rs].toNat → s.x[rs].toNat ≤ 255 → ∃ t val, exec (.tblrd rd 0x00 rs) s = .next t ∧
      ScalarWritten s t rd val ∧ val.toNat < 255 ∧ s.alpha val.toNat = s.x[rs].setWidth 8) ∧
    (s.x[rs].toNat ≤ 255 → ∃ t, exec (.tblrd rd 0x01 rs) s = .next t ∧
      ScalarWritten s t rd ((s.alpha s.x[rs].toNat).setWidth 32)) ∧
    (255 < s.x[rs].toNat ∨ s.x[rs] = 0 → ∃ t, exec (.tblrd rd 0x00 rs) s = .next t ∧
      FailedWith s t .invalidParameters) ∧
    (255 < s.x[rs].toNat → ∃ t, exec (.tblrd rd 0x01 rs) s = .next t ∧ FailedWith s t .invalidParameters)) ∧
  (∀ (s : State) (rd rs : XReg), s.CrcReady →
    (s.x[rs].toNat ≤ 255 → ∃ t, exec (.tblrd rd 0x02 rs) s = .next t ∧
      ScalarWritten s t rd (crcTableEntry s.crcWidth s.crcPoly (s.x[rs].setWidth 8))) ∧
    (255 < s.x[rs].toNat → ∃ t, exec (.tblrd rd 0x02 rs) s = .next t ∧ FailedWith s t .invalidParameters))

/-! ### Field arithmetic -/

/-- 41_gf_arithmetic.md R130, 10_state.md R22: GFADD is XOR of the low bytes and completes in every state. -/
def Obligations.GfaddIsXorOfBytes : Prop :=
  ∀ (s : State) (rd rs rt : XReg), ∃ t val, exec (.gfadd rd rs rt) s = .next t ∧ ScalarWritten s t rd val ∧
    val.toNat = (s.x[rs].toNat % 256) ^^^ (s.x[rt].toNat % 256)

/-- R123, R131: GFMUL, computed by the tables, is the carry-less product modulo `FIELD_POLY`. -/
def Obligations.GfmulMatchesDefinition : Prop :=
  ∀ (s : State) (rd rs rt : XReg), s.FieldReady →
    ∃ t, exec (.gfmul rd rs rt) s = .next t ∧
      ScalarWritten s t rd ((gfMulx s.fieldPoly (s.x[rs].setWidth 8) (s.x[rt].setWidth 8)).setWidth 32)

/-- R124, R125, R132, R134: GFINV gives the multiplicative inverse and GFDIV the quotient; both fail with
`DivisionByZero` when the byte they invert is 0, whatever the dividend. -/
def Obligations.GfinvAndGfdivInvert : Prop :=
  ∀ (s : State) (rd rs rt : XReg), s.FieldReady →
    (s.x[rs].setWidth 8 ≠ 0#8 → ∃ (t : State) (b : Byte), exec (.gfinv rd rs) s = .next t ∧
      ScalarWritten s t rd (b.setWidth 32) ∧ gfMulx s.fieldPoly (s.x[rs].setWidth 8) b = 1) ∧
    (s.x[rs].setWidth 8 = 0#8 → ∃ t, exec (.gfinv rd rs) s = .next t ∧ FailedWith s t .divisionByZero) ∧
    (s.x[rt].setWidth 8 ≠ 0#8 → ∃ (t : State) (q : Byte), exec (.gfdiv rd rs rt) s = .next t ∧
      ScalarWritten s t rd (q.setWidth 32) ∧ gfMulx s.fieldPoly q (s.x[rt].setWidth 8) = s.x[rs].setWidth 8) ∧
    (s.x[rt].setWidth 8 = 0#8 → ∃ t, exec (.gfdiv rd rs rt) s = .next t ∧ FailedWith s t .divisionByZero)

/-- R126, R133: GFPOW is the product of as many copies of the base as all 32 bits of the exponent say; 1 for 0. -/
def Obligations.GfpowIsRepeatedProduct : Prop :=
  ∀ (s : State) (rd rs rt : XReg), s.FieldReady →
    ∃ t, exec (.gfpow rd rs rt) s = .next t ∧
      ScalarWritten s t rd ((gfPowx s.fieldPoly (s.x[rs].setWidth 8) s.x[rt].toNat).setWidth 32)

/-- R127: the laws of the field for the table-based multiplication, in every ready state. -/
def Obligations.FieldLawsHold : Prop :=
  ∀ s : State, s.FieldReady → ∀ a b c : Byte,
    gfMul s.tables 0 a = 0 ∧ gfMul s.tables a 0 = 0 ∧ gfMul s.tables 1 a = a ∧
    gfMul s.tables a b = gfMul s.tables b a ∧
    gfMul s.tables a (gfMul s.tables b c) = gfMul s.tables (gfMul s.tables a b) c ∧
    gfMul s.tables a (gfAdd b c) = gfAdd (gfMul s.tables a b) (gfMul s.tables a c) ∧
    (a ≠ 0 → ∃ b', gfInv s.tables a = .ok b' ∧ gfMul s.tables a b' = 1) ∧
    (a ≠ 0 → gfPow s.tables a 255 = 1)

/-! ### Vector registers -/

/-- 42_vector_move.md R140 to R142, R145 to R147: the commands that write a vector register. -/
def Obligations.VectorWritesComplete : Prop :=
  ∀ (s : State) (vd vs : VReg) (rs rt : XReg) (imm : Byte),
    (∃ t, exec (.vclr vd) s = .next t ∧ VectorWritten s t vd []) ∧
    (s.v[vd].length < 256 → ∃ t, exec (.vpushi vd imm) s = .next t ∧ VectorWritten s t vd (s.v[vd] ++ [imm])) ∧
    (s.v[vd].length < 256 → ∃ t, exec (.vpush vd rs) s = .next t ∧
      VectorWritten s t vd (s.v[vd] ++ [s.x[rs].setWidth 8])) ∧
    (256 ≤ s.v[vd].length → (∃ t, exec (.vpushi vd imm) s = .next t ∧ FailedWith s t .capacityExceeded) ∧
      ∃ t, exec (.vpush vd rs) s = .next t ∧ FailedWith s t .capacityExceeded) ∧
    (∃ t, exec (.vmov vd vs) s = .next t ∧ VectorWritten s t vd s.v[vs]) ∧
    (∃ t bs, exec (.vrev vd vs) s = .next t ∧ VectorWritten s t vd bs ∧ bs.length = s.v[vs].length ∧
      ∀ i < bs.length, coeff bs i = coeff s.v[vs] (bs.length - 1 - i)) ∧
    (s.x[rs].toNat < s.v[vd].length → ∃ t bs, exec (.vset vd rs rt) s = .next t ∧ VectorWritten s t vd bs ∧
      bs.length = s.v[vd].length ∧ coeff bs s.x[rs].toNat = s.x[rt].setWidth 8 ∧
      ∀ i, i ≠ s.x[rs].toNat → coeff bs i = coeff s.v[vd] i) ∧
    (s.v[vd].length ≤ s.x[rs].toNat → ∃ t, exec (.vset vd rs rt) s = .next t ∧ FailedWith s t .invalidParameters)

/-- R143, R144: the commands that read a vector register. -/
def Obligations.VectorReadsComplete : Prop :=
  ∀ (s : State) (rd rt : XReg) (vs : VReg),
    (s.x[rt].toNat < s.v[vs].length → ∃ t val, exec (.vget rd vs rt) s = .next t ∧ ScalarWritten s t rd val ∧
      val.toNat = (coeff s.v[vs] s.x[rt].toNat).toNat) ∧
    (s.v[vs].length ≤ s.x[rt].toNat → ∃ t, exec (.vget rd vs rt) s = .next t ∧ FailedWith s t .invalidParameters) ∧
    (s.v[vs].length ≤ 256 → ∃ t val, exec (.vlen rd vs) s = .next t ∧ ScalarWritten s t rd val ∧
      val.toNat = s.v[vs].length)

/-! ### Polynomials -/

/-- 43_polynomial.md R162, R170: PEVAL is `Σ p[i]·x^i`; an empty operand fails. -/
def Obligations.PevalIsPolynomialValue : Prop :=
  ∀ (s : State) (rd rt : XReg) (vs : VReg), s.FieldReady →
    (s.v[vs] ≠ [] → ∃ t, exec (.peval rd vs rt) s = .next t ∧
      ScalarWritten s t rd ((polyValue s.fieldPoly s.v[vs] (s.x[rt].setWidth 8)).setWidth 32)) ∧
    (s.v[vs] = [] → ∃ t, exec (.peval rd vs rt) s = .next t ∧ FailedWith s t .invalidParameters)

/-- R160, R163, R171: PMUL is the product of the polynomials in canonical form; it exceeds the capacity exactly when both
operands are nonzero and their trimmed lengths sum to more than 257; an empty operand fails. -/
def Obligations.PmulIsPolynomialProduct : Prop :=
  ∀ (s : State) (vd vs vt : VReg), s.FieldReady →
    (s.v[vs] ≠ [] → s.v[vt] ≠ [] →
      ZeroPoly s.v[vs] ∨ ZeroPoly s.v[vt] ∨ (polyTrim s.v[vs]).length + (polyTrim s.v[vt]).length ≤ 257 →
      ∃ t p, exec (.pmul vd vs vt) s = .next t ∧ VectorWritten s t vd p ∧ Canonical p ∧
        ∀ k, coeff p k = convCoeff s.fieldPoly s.v[vs] s.v[vt] k) ∧
    (s.v[vs] ≠ [] → s.v[vt] ≠ [] → ¬ ZeroPoly s.v[vs] → ¬ ZeroPoly s.v[vt] →
      257 < (polyTrim s.v[vs]).length + (polyTrim s.v[vt]).length →
      ∃ t, exec (.pmul vd vs vt) s = .next t ∧ FailedWith s t .capacityExceeded) ∧
    (s.v[vs] = [] ∨ s.v[vt] = [] → ∃ t, exec (.pmul vd vs vt) s = .next t ∧ FailedWith s t .invalidParameters)

/-- R160, R164, R172: PDIVMOD gives q and r with `p = q·d + r` and r of lower degree than d, both canonical; a zero
divisor and an empty operand fail. -/
def Obligations.PdivmodDividesWithRemainder : Prop :=
  ∀ (s : State) (vq vr vs vt : VReg), s.FieldReady → vq ≠ vr →
    (s.v[vs] ≠ [] → s.v[vt] ≠ [] → ¬ ZeroPoly s.v[vt] →
      ∃ t q r, exec (.pdivmod vq vr vs vt) s = .next t ∧ TwoVectorsWritten s t vq q vr r ∧ Canonical q ∧ Canonical r ∧ (r = [0] ∨ r.length < (polyTrim s.v[vt]).length) ∧
      ∀ k, coeff s.v[vs] k = convCoeff s.fieldPoly q s.v[vt] k ^^^ coeff r k) ∧
    (s.v[vs] = [] ∨ s.v[vt] = [] ∨ ZeroPoly s.v[vt] →
      ∃ t, exec (.pdivmod vq vr vs vt) s = .next t ∧ FailedWith s t .invalidParameters)

/-- R161, R173: PTRIM gives the canonical form of the same polynomial, in every state; an empty operand fails. -/
def Obligations.PtrimGivesCanonicalForm : Prop :=
  ∀ (s : State) (vd vs : VReg),
    (s.v[vs] ≠ [] → ∃ t p, exec (.ptrim vd vs) s = .next t ∧ VectorWritten s t vd p ∧ Canonical p ∧
      (∃ m, s.v[vs] = p ++ List.replicate m 0)) ∧
    (s.v[vs] = [] → ∃ t, exec (.ptrim vd vs) s = .next t ∧ FailedWith s t .invalidParameters)

/-! ### Reed-Solomon -/

/-- 44_rs_encode.md R180, R183: RSGEN gives a monic polynomial of degree r whose roots are `α^0 .. α^(r-1)`. -/
def Obligations.RsgenHasConsecutiveRoots : Prop :=
  ∀ (s : State) (vd : VReg) (rt : XReg), s.FieldReady → s.x[rt].toNat ≤ 254 →
    ∃ t g, exec (.rsgen vd rt) s = .next t ∧ VectorWritten s t vd g ∧ g.length = s.x[rt].toNat + 1 ∧
      coeff g s.x[rt].toNat = 1 ∧ ∀ i < s.x[rt].toNat, polyValue s.fieldPoly g (s.alpha i) = 0

/-- R182, R184, R185: RSENC gives the data followed by r parity symbols, a word all of whose syndromes are 0. -/
def Obligations.RsencGivesCodeword : Prop :=
  ∀ (s : State) (vd vs : VReg) (rt : XReg), s.FieldReady →
    0 < s.v[vs].length → s.v[vs].length + s.x[rt].toNat ≤ 255 →
    ∃ t c, exec (.rsenc vd vs rt) s = .next t ∧ VectorWritten s t vd c ∧
      c.length = s.v[vs].length + s.x[rt].toNat ∧ c.take s.v[vs].length = s.v[vs] ∧ s.IsCodeword s.x[rt].toNat c

/-- 45_rs_decode.md R192, R210: RSSYN gives `S_j = R(α^j)`, never trimmed. -/
def Obligations.RssynEvaluatesAtRoots : Prop :=
  ∀ (s : State) (vd vs : VReg) (rt : XReg), s.FieldReady →
    s.x[rt].toNat < s.v[vs].length → s.v[vs].length ≤ 255 →
    ∃ t syn, exec (.rssyn vd vs rt) s = .next t ∧ VectorWritten s t vd syn ∧ syn.length = s.x[rt].toNat ∧
      ∀ j < s.x[rt].toNat, coeff syn j = polyValue s.fieldPoly s.v[vs].reverse (s.alpha j)

/-- R193, R211: RSLOC gives a canonical Λ with Λ[0] = 1 and deg Λ ≤ L whose recurrence generates the syndromes from
index L on, L being the least length of any such recurrence. Λ exceeds the capacity for exactly one form of operand: 255
zeros and then a nonzero element, where it would have degree 256. -/
def Obligations.RslocGivesRecurrence : Prop :=
  ∀ (s : State) (vd vs : VReg) (rc : XReg), s.FieldReady →
    ((∀ d : Byte, d ≠ 0 → s.v[vs] ≠ List.replicate 255 0 ++ [d]) →
      ∃ t lam len, exec (.rsloc vd vs rc) s = .next t ∧
        VectorAndScalarWritten s t vd lam rc (BitVec.ofNat 32 len) ∧ GeneratesFrom s.fieldPoly lam len s.v[vs]) ∧
    (∀ d : Byte, d ≠ 0 → s.v[vs] = List.replicate 255 0 ++ [d] →
      ∃ t, exec (.rsloc vd vs rc) s = .next t ∧ FailedWith s t .capacityExceeded)

/-- R194, R212: RSEVAL gives the canonical form of `S(x)·Ψ(x) mod x^m`. -/
def Obligations.RsevalIsTruncatedProduct : Prop :=
  ∀ (s : State) (vd vs vt : VReg), s.FieldReady →
    (s.v[vt] ≠ [] → ∃ t om, exec (.rseval vd vs vt) s = .next t ∧ VectorWritten s t vd om ∧ Canonical om ∧
      ∀ k, coeff om k = if k < s.v[vs].length then convCoeff s.fieldPoly s.v[vs] s.v[vt] k else 0) ∧
    (s.v[vt] = [] → ∃ t, exec (.rseval vd vs vt) s = .next t ∧ FailedWith s t .invalidParameters)

/-- R195, R213: RSCHIEN gives, in ascending order, exactly the degrees d with `Λ(α^(-d)) = 0`, and their count. -/
def Obligations.RschienFindsAllRoots : Prop :=
  ∀ (s : State) (vd vs : VReg) (rc : XReg), s.FieldReady →
    (s.v[vs] ≠ [] → ∃ t roots, exec (.rschien vd vs rc) s = .next t ∧
      VectorAndScalarWritten s t vd roots rc (BitVec.ofNat 32 roots.length) ∧
      roots.Pairwise (fun a b => a.toNat < b.toNat) ∧
      ∀ d : Byte, d ∈ roots ↔
        d.toNat < 255 ∧ polyValue s.fieldPoly s.v[vs] (s.alpha (255 - d.toNat)) = 0) ∧
    (s.v[vs] = [] → ∃ t, exec (.rschien vd vs rc) s = .next t ∧ FailedWith s t .invalidParameters)

/-- R197, R214: RSFORN gives, for each location d in order, the m with `m·Ψ'(X⁻¹) = X·Ω(X⁻¹)`, X = α^d; it fails with
`DivisionByZero` when some denominator is 0 and with `InvalidParameters` on a location above 254 or an empty Ω or Ψ. -/
def Obligations.RsfornGivesMagnitudes : Prop :=
  ∀ (s : State) (vd vs vt vu : VReg), s.FieldReady →
    (s.v[vs] ≠ [] → s.v[vt] ≠ [] →
      (∀ d ∈ s.v[vu], d.toNat ≤ 254 ∧ polyValue s.fieldPoly (formalDeriv s.v[vt]) (s.alpha (255 - d.toNat)) ≠ 0) →
      ∃ t mags, exec (.rsforn vd vs vt vu) s = .next t ∧ VectorWritten s t vd mags ∧
        mags.length = s.v[vu].length ∧
        ∀ j < mags.length,
          gfMulx s.fieldPoly (coeff mags j)
              (polyValue s.fieldPoly (formalDeriv s.v[vt]) (s.alpha (255 - (coeff s.v[vu] j).toNat))) =
            gfMulx s.fieldPoly (s.alpha (coeff s.v[vu] j).toNat)
              (polyValue s.fieldPoly s.v[vs] (s.alpha (255 - (coeff s.v[vu] j).toNat)))) ∧
    (s.v[vs] = [] ∨ s.v[vt] = [] ∨ (∃ d ∈ s.v[vu], 254 < d.toNat) → ∃ t, exec (.rsforn vd vs vt vu) s = .next t ∧
      FailedWith s t .invalidParameters) ∧
    (s.v[vs] ≠ [] → s.v[vt] ≠ [] → (∀ d ∈ s.v[vu], d.toNat ≤ 254) →
      (∃ d ∈ s.v[vu], polyValue s.fieldPoly (formalDeriv s.v[vt]) (s.alpha (255 - d.toNat)) = 0) →
      ∃ t, exec (.rsforn vd vs vt vu) s = .next t ∧ FailedWith s t .divisionByZero)

/-- R203, R215, R216: a received word whose syndromes are all 0 decodes to its leading k symbols, by RSDEC and by
RSDECE with an empty erasure list; with an empty list the two are the same command. -/
def Obligations.DecodeOfCodewordReturnsData : Prop :=
  (∀ (s : State) (vd vs ve : VReg) (rt : XReg), s.FieldReady →
    s.x[rt].toNat < s.v[vs].length → s.v[vs].length ≤ 255 → s.IsCodeword s.x[rt].toNat s.v[vs] →
    (∃ t, exec (.rsdec vd vs rt) s = .next t ∧
      VectorWritten s t vd (s.v[vs].take (s.v[vs].length - s.x[rt].toNat))) ∧
    (s.v[ve] = [] → ∃ t, exec (.rsdece vd vs rt ve) s = .next t ∧
      VectorWritten s t vd (s.v[vs].take (s.v[vs].length - s.x[rt].toNat)))) ∧
  (∀ (s : State) (vd vs ve : VReg) (rt : XReg), s.v[ve] = [] →
    exec (.rsdece vd vs rt ve) s = exec (.rsdec vd vs rt) s)

/-- R202: "a returned word always has all-zero syndromes and lies within capacity of recv". -/
def Obligations.DecodeIsSound : Prop :=
  ∀ (s t : State) (vd vs ve : VReg) (rt : XReg), s.FieldReady →
    (exec (.rsdec vd vs rt) s = .next t → t.status.last = .ok →
      ∃ c, c.length = s.v[vs].length ∧ s.x[rt].toNat < c.length ∧ c.length ≤ 255 ∧ s.IsCodeword s.x[rt].toNat c ∧
        2 * errorCount s.v[vs] c [] ≤ s.x[rt].toNat ∧
        VectorWritten s t vd (c.take (c.length - s.x[rt].toNat))) ∧
    (exec (.rsdece vd vs rt ve) s = .next t → t.status.last = .ok →
      ∃ c, c.length = s.v[vs].length ∧ s.x[rt].toNat < c.length ∧ c.length ≤ 255 ∧ s.IsCodeword s.x[rt].toNat c ∧
        s.v[ve].length + 2 * errorCount s.v[vs] c s.v[ve] ≤ s.x[rt].toNat ∧
        VectorWritten s t vd (c.take (c.length - s.x[rt].toNat)))

/-- R201, rows 1, 2, 4 and 5: the data of a codeword come back from every word within capacity of it: e erasures and v
other wrong symbols with e + 2v ≤ r. -/
def Obligations.DecodeCorrectsWithinCapacity : Prop :=
  ∀ (s : State) (vd vs ve : VReg) (rt : XReg) (c : List Byte), s.FieldReady →
    s.x[rt].toNat < c.length → c.length ≤ 255 → s.IsCodeword s.x[rt].toNat c → s.v[vs].length = c.length →
    (2 * errorCount s.v[vs] c [] ≤ s.x[rt].toNat →
      ∃ t, exec (.rsdec vd vs rt) s = .next t ∧ VectorWritten s t vd (c.take (c.length - s.x[rt].toNat))) ∧
    (LegalErasures c.length s.v[ve] → s.v[ve].length + 2 * errorCount s.v[vs] c s.v[ve] ≤ s.x[rt].toNat →
      ∃ t, exec (.rsdece vd vs rt ve) s = .next t ∧ VectorWritten s t vd (c.take (c.length - s.x[rt].toNat)))

/-- 44_rs_encode.md R181, R183, R184, 45_rs_decode.md R191, R200, R204, R201 row 3: the parameter checks of the
Reed-Solomon commands, and more erasures than parity symbols. -/
def Obligations.ReedSolomonParameterChecks : Prop :=
  ∀ (s : State) (vd vs ve : VReg) (rt : XReg), s.status.frdy = true →
    (254 < s.x[rt].toNat → ∃ t, exec (.rsgen vd rt) s = .next t ∧ FailedWith s t .invalidParameters) ∧
    (¬ (0 < s.v[vs].length ∧ s.v[vs].length + s.x[rt].toNat ≤ 255) →
      ∃ t, exec (.rsenc vd vs rt) s = .next t ∧ FailedWith s t .invalidParameters) ∧
    (¬ (s.x[rt].toNat < s.v[vs].length ∧ s.v[vs].length ≤ 255) →
      (∃ t, exec (.rssyn vd vs rt) s = .next t ∧ FailedWith s t .invalidParameters) ∧
      (∃ t, exec (.rsdec vd vs rt) s = .next t ∧ FailedWith s t .invalidParameters) ∧
      (∃ t, exec (.rsdece vd vs rt ve) s = .next t ∧ FailedWith s t .invalidParameters)) ∧
    (s.x[rt].toNat < s.v[vs].length → s.v[vs].length ≤ 255 →
      (¬ LegalErasures s.v[vs].length s.v[ve] →
        ∃ t, exec (.rsdece vd vs rt ve) s = .next t ∧ FailedWith s t .invalidParameters) ∧
      (LegalErasures s.v[vs].length s.v[ve] → s.x[rt].toNat < s.v[ve].length →
        ∃ t, exec (.rsdece vd vs rt ve) s = .next t ∧ FailedWith s t .erasureLimitExceeded))

/-! ### CRC -/

/-- 46_crc.md R222, R223: CRCINIT builds the table and loads the register exactly when the configuration passes its
checks; CRCTAB[0] = 0 and CRCTAB[1] = P. -/
def Obligations.CrcinitBuildsTable : Prop :=
  (∀ s : State, s.crcConfigOk →
    ∃ t, exec .crcinit s = .next t ∧
      OkFrom { s with crctab := t.crctab, crcReg := s.crcInit, status := { s.status with crdy := true } } t 0 ∧
      (∀ i : Fin 256, t.crctab[i] = crcTableEntry s.crcWidth s.crcPoly (BitVec.ofFin i)) ∧
      t.crctab[0] = 0 ∧ t.crctab[1] = s.crcPoly) ∧
  (∀ s : State, ¬ s.crcConfigOk → ∃ t, exec .crcinit s = .next t ∧ FailedWith s t .invalidParameters)

/-- R225: folding a byte through the table is eight steps of bit-serial division. -/
def Obligations.CrcTableFoldEqualsBitSerialDivision : Prop :=
  ∀ (W : Nat) (refin : Bool) (poly reg : Word) (b : Byte), W ∈ [8, 16, 32] → poly.toNat < 2 ^ W → reg.toNat < 2 ^ W →
    crcUpdate W refin (crcBuildTable W poly) reg b = crcBitSerial W refin poly reg b

/-- R226 to R229, R231: the CRC commands, with the table replaced by bit-serial division and the final reflection said
bit by bit. -/
def Obligations.CrcCommandsComplete : Prop :=
  ∀ (s : State) (rd : XReg) (vs : VReg), s.CrcReady →
    let fold := fun reg => s.v[vs].foldl (crcBitSerial s.crcWidth (s.crcCfg.getLsbD 8) s.crcPoly) reg
    let isChecksum := fun (reg val : Word) => ∀ i < 32, val.getLsbD i =
      ((if s.crcCfg.getLsbD 9 then decide (i < s.crcWidth) && reg.getLsbD (s.crcWidth - 1 - i) else reg.getLsbD i) ^^
        s.crcXorout.getLsbD i)
    (∃ t, exec .crcrst s = .next t ∧ OkFrom { s with crcReg := s.crcInit } t 0) ∧
    (∃ t, exec (.crcupd vs) s = .next t ∧ OkFrom { s with crcReg := fold s.crcReg } t 0) ∧
    (∃ t val, exec (.crcfin rd) s = .next t ∧ ScalarWritten s t rd val ∧ isChecksum s.crcReg val) ∧
    (∃ t val, exec (.crc rd vs) s = .next t ∧ ScalarWritten { s with crcReg := fold s.crcInit } t rd val ∧
      isChecksum (fold s.crcInit) val)

/-- R226, R229: CRC is CRCRST, CRCUPD, CRCFIN as one command, and a message may be folded in parts. -/
def Obligations.CrcOneShotAndPartsAgree : Prop :=
  (∀ (s : State) (rd : XReg) (vs : VReg), s.status.crdy = true →
    ∃ t1 t2 t3 t, exec .crcrst s = .next t1 ∧ exec (.crcupd vs) t1 = .next t2 ∧ exec (.crcfin rd) t2 = .next t3 ∧
      exec (.crc rd vs) s = .next t ∧ t3 = { t with responses := t3.responses }) ∧
  (∀ (s : State) (va vb vc : VReg), s.status.crdy = true → s.v[vc] = s.v[va] ++ s.v[vb] →
    ∃ t1 t2 t, exec (.crcupd va) s = .next t1 ∧ exec (.crcupd vb) t1 = .next t2 ∧ exec (.crcupd vc) s = .next t ∧
      t2 = { t with responses := t2.responses })

/-! ### LFSR -/

/-- 47_lfsr.md R241, R242: LFSRSEED stores a seed that fits, refusing a zero seed under `MAXLEN`. -/
def Obligations.LfsrseedStoresLegalSeed : Prop :=
  ∀ (s : State) (rs : XReg),
    (s.LfsrShape → s.x[rs].toNat < 2 ^ s.lfsrWidth → ¬ (s.x[rs] = 0 ∧ s.lfsrCfg.getLsbD 8 = true) →
      ∃ t, exec (.lfsrseed rs) s = .next t ∧ OkFrom { s with lfsrState := s.x[rs] } t 0) ∧
    (¬ (s.LfsrShape ∧ s.x[rs].toNat < 2 ^ s.lfsrWidth ∧ ¬ (s.x[rs] = 0 ∧ s.lfsrCfg.getLsbD 8 = true)) →
      ∃ t, exec (.lfsrseed rs) s = .next t ∧ FailedWith s t .invalidParameters)

/-- R243, R244: LFSRSTEP puts out bit 0, shifts right, and feeds the parity of the tapped bits in at bit w-1. -/
def Obligations.LfsrstepShiftsRight : Prop :=
  ∀ (s : State) (rd : XReg),
    (s.LfsrReady → ∃ t new val, exec (.lfsrstep rd) s = .next t ∧
      ScalarWritten { s with lfsrState := new } t rd val ∧
      val.toNat = s.lfsrState.toNat % 2 ∧
      new.toNat < 2 ^ s.lfsrWidth ∧
      (∀ i, i + 1 < s.lfsrWidth → new.getLsbD i = s.lfsrState.getLsbD (i + 1)) ∧
      (new.getLsbD (s.lfsrWidth - 1) = true ↔
        ((List.range 32).filter fun i => (s.lfsrState &&& s.lfsrTaps).getLsbD i).length % 2 = 1)) ∧
    (¬ s.LfsrReady → ∃ t, exec (.lfsrstep rd) s = .next t ∧ FailedWith s t .invalidParameters)

/-- R246: LFSRN is `count` steps, first bit in bit 0; as many steps as the register is wide give back the state held
before; one step is LFSRSTEP. -/
def Obligations.LfsrnPacksSteps : Prop :=
  (∀ (s : State) (rd : XReg) (count : Byte), 1 ≤ count.toNat → count.toNat ≤ 32 → s.LfsrReady →
    ∃ t val, exec (.lfsrn rd count) s = .next t ∧
      ScalarWritten { s with lfsrState := lfsrAfter s.lfsrWidth s.lfsrTaps count.toNat s.lfsrState } t rd val ∧
      (∀ k < 32, val.getLsbD k = (decide (k < count.toNat) &&
        (lfsrAfter s.lfsrWidth s.lfsrTaps k s.lfsrState).getLsbD 0)) ∧
      (count.toNat = s.lfsrWidth → val = s.lfsrState)) ∧
  (∀ (s : State) (rd : XReg) (count : Byte), 1 ≤ count.toNat → count.toNat ≤ 32 → ¬ s.LfsrReady →
    ∃ t, exec (.lfsrn rd count) s = .next t ∧ FailedWith s t .invalidParameters) ∧
  (∀ (s : State) (rd : XReg), exec (.lfsrn rd 1) s = exec (.lfsrstep rd) s)

/-- R245 (c): zero is a fixed point of the step for every mask; when bit 0 is in the taps no nonzero state that fits the
width steps to 0. -/
def Obligations.LfsrZeroIsFixedPoint : Prop :=
  (∀ (w : Nat) (taps : Word), lfsrNext w taps 0 = 0 ∧ lfsrOut 0 = false) ∧
  (∀ (w : Nat) (taps st : Word), 1 ≤ w → w ≤ 32 → taps.getLsbD 0 = true → st.toNat < 2 ^ w → st ≠ 0 →
    lfsrNext w taps st ≠ 0)
end

