-- ==== Sys2Proof/Laws/State.lean ====
section
/-! SUPPORT. One lemma per field per update of the state, and the read-after-write laws of the registers. -/

namespace Sys2Proof.Machine

/-! ### setX -/

@[simp] theorem setX_v (s : State) (r : XReg) (w : Word) : (s.setX r w).v = s.v := rfl
@[simp] theorem setX_status (s : State) (r : XReg) (w : Word) : (s.setX r w).status = s.status := rfl
@[simp] theorem setX_fieldPoly (s : State) (r : XReg) (w : Word) : (s.setX r w).fieldPoly = s.fieldPoly := rfl
@[simp] theorem setX_fieldGen (s : State) (r : XReg) (w : Word) : (s.setX r w).fieldGen = s.fieldGen := rfl
@[simp] theorem setX_crcCfg (s : State) (r : XReg) (w : Word) : (s.setX r w).crcCfg = s.crcCfg := rfl
@[simp] theorem setX_crcPoly (s : State) (r : XReg) (w : Word) : (s.setX r w).crcPoly = s.crcPoly := rfl
@[simp] theorem setX_crcInit (s : State) (r : XReg) (w : Word) : (s.setX r w).crcInit = s.crcInit := rfl
@[simp] theorem setX_crcXorout (s : State) (r : XReg) (w : Word) : (s.setX r w).crcXorout = s.crcXorout := rfl
@[simp] theorem setX_crcReg (s : State) (r : XReg) (w : Word) : (s.setX r w).crcReg = s.crcReg := rfl
@[simp] theorem setX_lfsrCfg (s : State) (r : XReg) (w : Word) : (s.setX r w).lfsrCfg = s.lfsrCfg := rfl
@[simp] theorem setX_lfsrTaps (s : State) (r : XReg) (w : Word) : (s.setX r w).lfsrTaps = s.lfsrTaps := rfl
@[simp] theorem setX_lfsrState (s : State) (r : XReg) (w : Word) : (s.setX r w).lfsrState = s.lfsrState := rfl
@[simp] theorem setX_tables (s : State) (r : XReg) (w : Word) : (s.setX r w).tables = s.tables := rfl
@[simp] theorem setX_crctab (s : State) (r : XReg) (w : Word) : (s.setX r w).crctab = s.crctab := rfl
@[simp] theorem setX_inputs (s : State) (r : XReg) (w : Word) : (s.setX r w).inputs = s.inputs := rfl
@[simp] theorem setX_responses (s : State) (r : XReg) (w : Word) : (s.setX r w).responses = s.responses := rfl

/-- Reading the scalar register just written gives the value written. -/
theorem setX_read_same (s : State) (r : XReg) (w : Word) : (s.setX r w).x[r] = w := by
  simp [State.setX]

/-- The same in the form the simplifier brings an index to. -/
@[simp] theorem setX_read_val (s : State) (r : XReg) (w : Word) : (s.setX r w).x[r.val] = w := by
  simp [State.setX]

/-- A scalar write leaves every other scalar register alone. -/
theorem setX_read_other (s : State) (r q : XReg) (w : Word) (h : q ≠ r) : (s.setX r w).x[q] = s.x[q] := by
  have h' : r.val ≠ q.val := fun e => h (Fin.ext e.symm)
  simp [State.setX, Vector.getElem_set_ne, h']

/-! ### setV -/

@[simp] theorem setV_x (s : State) (r : VReg) (l : List Byte) : (s.setV r l).x = s.x := rfl
@[simp] theorem setV_status (s : State) (r : VReg) (l : List Byte) : (s.setV r l).status = s.status := rfl
@[simp] theorem setV_fieldPoly (s : State) (r : VReg) (l : List Byte) : (s.setV r l).fieldPoly = s.fieldPoly := rfl
@[simp] theorem setV_fieldGen (s : State) (r : VReg) (l : List Byte) : (s.setV r l).fieldGen = s.fieldGen := rfl
@[simp] theorem setV_crcCfg (s : State) (r : VReg) (l : List Byte) : (s.setV r l).crcCfg = s.crcCfg := rfl
@[simp] theorem setV_crcPoly (s : State) (r : VReg) (l : List Byte) : (s.setV r l).crcPoly = s.crcPoly := rfl
@[simp] theorem setV_crcInit (s : State) (r : VReg) (l : List Byte) : (s.setV r l).crcInit = s.crcInit := rfl
@[simp] theorem setV_crcXorout (s : State) (r : VReg) (l : List Byte) : (s.setV r l).crcXorout = s.crcXorout := rfl
@[simp] theorem setV_crcReg (s : State) (r : VReg) (l : List Byte) : (s.setV r l).crcReg = s.crcReg := rfl
@[simp] theorem setV_lfsrCfg (s : State) (r : VReg) (l : List Byte) : (s.setV r l).lfsrCfg = s.lfsrCfg := rfl
@[simp] theorem setV_lfsrTaps (s : State) (r : VReg) (l : List Byte) : (s.setV r l).lfsrTaps = s.lfsrTaps := rfl
@[simp] theorem setV_lfsrState (s : State) (r : VReg) (l : List Byte) : (s.setV r l).lfsrState = s.lfsrState := rfl
@[simp] theorem setV_tables (s : State) (r : VReg) (l : List Byte) : (s.setV r l).tables = s.tables := rfl
@[simp] theorem setV_crctab (s : State) (r : VReg) (l : List Byte) : (s.setV r l).crctab = s.crctab := rfl
@[simp] theorem setV_inputs (s : State) (r : VReg) (l : List Byte) : (s.setV r l).inputs = s.inputs := rfl
@[simp] theorem setV_responses (s : State) (r : VReg) (l : List Byte) : (s.setV r l).responses = s.responses := rfl

/-- Reading the vector register just written gives the content written. -/
theorem setV_read_same (s : State) (r : VReg) (l : List Byte) : (s.setV r l).v[r] = l := by
  simp [State.setV]

/-- The same in the form the simplifier brings an index to. -/
@[simp] theorem setV_read_val (s : State) (r : VReg) (l : List Byte) : (s.setV r l).v[r.val] = l := by
  simp [State.setV]

/-- A vector write leaves every other vector register alone. -/
theorem setV_read_other (s : State) (r q : VReg) (l : List Byte) (h : q ≠ r) : (s.setV r l).v[q] = s.v[q] := by
  have h' : r.val ≠ q.val := fun e => h (Fin.ext e.symm)
  simp [State.setV, Vector.getElem_set_ne, h']

/-! ### complete -/

@[simp] theorem complete_x (s : State) (c : Code) (d : Word) : (s.complete c d).x = s.x := rfl
@[simp] theorem complete_v (s : State) (c : Code) (d : Word) : (s.complete c d).v = s.v := rfl
@[simp] theorem complete_status (s : State) (c : Code) (d : Word) :
    (s.complete c d).status = recordCode s.status c := rfl
@[simp] theorem complete_fieldPoly (s : State) (c : Code) (d : Word) : (s.complete c d).fieldPoly = s.fieldPoly := rfl
@[simp] theorem complete_fieldGen (s : State) (c : Code) (d : Word) : (s.complete c d).fieldGen = s.fieldGen := rfl
@[simp] theorem complete_crcCfg (s : State) (c : Code) (d : Word) : (s.complete c d).crcCfg = s.crcCfg := rfl
@[simp] theorem complete_crcPoly (s : State) (c : Code) (d : Word) : (s.complete c d).crcPoly = s.crcPoly := rfl
@[simp] theorem complete_crcInit (s : State) (c : Code) (d : Word) : (s.complete c d).crcInit = s.crcInit := rfl
@[simp] theorem complete_crcXorout (s : State) (c : Code) (d : Word) : (s.complete c d).crcXorout = s.crcXorout := rfl
@[simp] theorem complete_crcReg (s : State) (c : Code) (d : Word) : (s.complete c d).crcReg = s.crcReg := rfl
@[simp] theorem complete_lfsrCfg (s : State) (c : Code) (d : Word) : (s.complete c d).lfsrCfg = s.lfsrCfg := rfl
@[simp] theorem complete_lfsrTaps (s : State) (c : Code) (d : Word) : (s.complete c d).lfsrTaps = s.lfsrTaps := rfl
@[simp] theorem complete_lfsrState (s : State) (c : Code) (d : Word) : (s.complete c d).lfsrState = s.lfsrState := rfl
@[simp] theorem complete_tables (s : State) (c : Code) (d : Word) : (s.complete c d).tables = s.tables := rfl
@[simp] theorem complete_crctab (s : State) (c : Code) (d : Word) : (s.complete c d).crctab = s.crctab := rfl
@[simp] theorem complete_inputs (s : State) (c : Code) (d : Word) : (s.complete c d).inputs = s.inputs := rfl
@[simp] theorem complete_responses (s : State) (c : Code) (d : Word) :
    (s.complete c d).responses = s.responses ++ [{ code := c, data := d }] := rfl

/-! ### recordCode, clearSticky, clearCrdy -/

@[simp] theorem recordCode_frdy (st : Status) (c : Code) : (recordCode st c).frdy = st.frdy := by cases c <;> rfl
@[simp] theorem recordCode_crdy (st : Status) (c : Code) : (recordCode st c).crdy = st.crdy := by cases c <;> rfl
@[simp] theorem recordCode_last (st : Status) (c : Code) : (recordCode st c).last = c := by cases c <;> rfl
@[simp] theorem recordCode_ok_sticky (st : Status) : (recordCode st .ok).sticky = st.sticky := rfl
@[simp] theorem recordCode_failure_sticky (st : Status) (f : Failure) :
    (recordCode st (.failure f)).sticky = st.sticky ||| stickyBit f := rfl

@[simp] theorem clearSticky_frdy (st : Status) (w : Word) : (clearSticky st w).frdy = st.frdy := rfl
@[simp] theorem clearSticky_crdy (st : Status) (w : Word) : (clearSticky st w).crdy = st.crdy := rfl
@[simp] theorem clearSticky_last (st : Status) (w : Word) : (clearSticky st w).last = st.last := rfl

@[simp] theorem clearCrdy_x (s : State) : s.clearCrdy.x = s.x := rfl
@[simp] theorem clearCrdy_v (s : State) : s.clearCrdy.v = s.v := rfl
@[simp] theorem clearCrdy_frdy (s : State) : s.clearCrdy.status.frdy = s.status.frdy := rfl
@[simp] theorem clearCrdy_crdy (s : State) : s.clearCrdy.status.crdy = false := rfl
@[simp] theorem clearCrdy_last (s : State) : s.clearCrdy.status.last = s.status.last := rfl
@[simp] theorem clearCrdy_sticky (s : State) : s.clearCrdy.status.sticky = s.status.sticky := rfl
@[simp] theorem clearCrdy_tables (s : State) : s.clearCrdy.tables = s.tables := rfl
@[simp] theorem clearCrdy_crctab (s : State) : s.clearCrdy.crctab = s.crctab := rfl
@[simp] theorem clearCrdy_inputs (s : State) : s.clearCrdy.inputs = s.inputs := rfl
@[simp] theorem clearCrdy_responses (s : State) : s.clearCrdy.responses = s.responses := rfl

end Sys2Proof.Machine
end

