-- ==== Sys2Proof/Laws/Ops.lean ====
section
/-! SUPPORT. What the shared operations can do: checks, completing a command, and the bit-field helpers. -/

namespace Sys2Proof.Machine

/-! ### Checks -/

/-- A check that holds lets the body go on. -/
@[simp] theorem require_pos {c : Prop} [Decidable c] (h : c) (f : Failure) : require c f = .ok () := by
  simp [require, h]

/-- A check that does not hold raises its failure. -/
@[simp] theorem require_neg {c : Prop} [Decidable c] (h : ¬c) (f : Failure) : require c f = .error f := by
  simp [require, h]

/-- A body that starts with a check: the failure, or the rest of the body. -/
theorem require_bind {α : Type} (c : Prop) [Decidable c] (f : Failure) (k : Unit → Except Failure α) :
    (require c f >>= k) = if c then k () else .error f := by
  by_cases h : c <;> simp [require, h] <;> rfl

/-! ### Running a command -/

/-- A body that raises: nothing but `STATUS` and the response port changes (60_exceptions.md R264). -/
@[simp] theorem runCommand_error (s : State) (f : Failure) :
    runCommand s (.error f) = .next (s.complete (.failure f) 0) := rfl

/-- A body that succeeds completes `OK`. -/
@[simp] theorem runCommand_ok (s : State) (d : Done) :
    runCommand s (.ok d) = .next (d.state.complete .ok d.data) := rfl

/-- A body that ends with its destinations written. -/
@[simp] theorem runCommand_done (s t : State) : runCommand s (done t) = .next (t.complete .ok 0) := rfl

/-- A command whose body starts with a check. -/
theorem runCommand_require (s : State) (c : Prop) [Decidable c] (f : Failure) (k : Unit → Except Failure Done) :
    runCommand s (require c f >>= k) =
      if c then runCommand s (k ()) else .next (s.complete (.failure f) 0) := by
  rw [require_bind]; split <;> rfl

/-- Everything a command can do: complete with a failure that its body raised, or complete `OK`. -/
theorem runCommand_cases {s t : State} {body : Except Failure Done} (h : runCommand s body = .next t) :
    (∃ f, body = .error f ∧ t = s.complete (.failure f) 0) ∨
    (∃ d, body = .ok d ∧ t = d.state.complete .ok d.data) := by
  cases body with
  | error f => exact .inl ⟨f, rfl, by simpa using h.symm⟩
  | ok d => exact .inr ⟨d, rfl, by simpa using h.symm⟩

/-- A command always answers a next state. -/
theorem runCommand_answers (s : State) (body : Except Failure Done) : ∃ t, runCommand s body = .next t := by
  cases body <;> simp

/-- A bind whose first part raises. -/
@[simp] theorem error_bind {α β : Type} (f : Failure) (k : α → Except Failure β) : (Except.error f >>= k) = .error f := rfl

/-- A bind whose first part succeeds. -/
@[simp] theorem ok_bind {α β : Type} (a : α) (k : α → Except Failure β) : (Except.ok a >>= k) = k a := rfl

/-- `return` in a body. -/
@[simp] theorem return_ok {α : Type} (a : α) : (pure a : Except Failure α) = .ok a := rfl

/-- Everything a bind that succeeds can be. -/
theorem bind_ok_inv {α β : Type} {m : Except Failure α} {k : α → Except Failure β} {b : β} (h : (m >>= k) = .ok b) :
    ∃ a, m = .ok a ∧ k a = .ok b := by
  cases m with
  | error f => simp at h
  | ok a => exact ⟨a, rfl, by simpa using h⟩

/-- Everything a bind that raises can be. -/
theorem bind_error_inv {α β : Type} {m : Except Failure α} {k : α → Except Failure β} {f : Failure}
    (h : (m >>= k) = .error f) : m = .error f ∨ ∃ a, m = .ok a ∧ k a = .error f := by
  cases m with
  | error g => exact .inl (by simpa using h)
  | ok a => exact .inr ⟨a, rfl, by simpa using h⟩

/-! ### Bits -/

/-- Bit i of `v mod 2^W`. -/
theorem getLsbD_truncTo (W i : Nat) (v : Word) : (truncTo W v).getLsbD i = (decide (i < W) && v.getLsbD i) := by
  by_cases h : i < 32
  · simp [truncTo, h]
  · simp [truncTo, h, BitVec.getLsbD_of_ge v i (by omega)]

/-- `truncTo` is the remainder modulo 2^W. -/
theorem toNat_truncTo (W : Nat) (v : Word) (h : W ≤ 32) : (truncTo W v).toNat = v.toNat % 2 ^ W := by
  have hlt : v.toNat % 2 ^ W < 2 ^ 32 :=
    lt_of_lt_of_le (Nat.mod_lt _ (by positivity)) (Nat.pow_le_pow_right (by omega) h)
  simpa [truncTo] using hlt

@[simp] theorem lowByte_zextByte (b : Byte) : lowByte (zextByte b) = b := by
  simp [lowByte, zextByte]

@[simp] theorem toNat_zextByte (b : Byte) : (zextByte b).toNat = b.toNat := by
  have h : b.toNat < 2 ^ 32 := lt_trans b.isLt (by norm_num)
  simpa [zextByte] using h

/-- Entry i of a tabulated vector. -/
@[simp] theorem tabulate_getElem {α : Type} (n : Nat) (f : Nat → α) (i : Nat) (h : i < n) :
    (tabulate n f)[i] = f i := by
  simp [tabulate]

end Sys2Proof.Machine
end

