-- ==== Sys2Proof/Laws/Crc.lean ====
section
/-! SUPPORT. What CRCINIT does, and the shape of the values the CRC unit computes. -/

namespace Sys2Proof.Machine

/-- CRCINIT with a configuration that passes its checks. -/
theorem execCrcinit_ok {s : State} (h : s.crcConfigOk) :
    execCrcinit s = .next (State.complete { s with
      crctab := crcBuildTable s.crcWidth s.crcPoly, crcReg := s.crcInit,
      status := { s.status with crdy := true } } .ok 0) := by
  obtain ⟨hw, hp, hfit⟩ := h
  rw [execCrcinit, runCommand_require, if_pos hw, runCommand_require, if_pos hp, runCommand_require, if_pos hfit]
  rfl

/-- CRCINIT with a configuration that fails a check. -/
theorem execCrcinit_fails {s : State} (h : ¬ s.crcConfigOk) :
    execCrcinit s = .next (s.complete (.failure .invalidParameters) 0) := by
  rw [execCrcinit, runCommand_require, runCommand_require, runCommand_require]
  split
  · split
    · split
      · exact absurd ⟨‹_›, ‹_›, ‹_›⟩ h
      · rfl
    · rfl
  · rfl

/-- Entry i of the table CRCINIT builds. -/
@[simp] theorem crcBuildTable_getElem (W : Nat) (poly : Word) (i : Nat) (h : i < 256) :
    (crcBuildTable W poly)[i] = crcTableEntry W poly (BitVec.ofNat 8 i) := by
  simp [crcBuildTable]

/-- Shifting adds up. -/
theorem crcShifts_add (W : Nat) (poly : Word) (m n : Nat) (reg : Word) :
    crcShifts W poly (m + n) reg = crcShifts W poly n (crcShifts W poly m reg) := by
  induction m generalizing reg with
  | zero => simp [crcShifts]
  | succ m ih => rw [Nat.succ_add]; exact ih _

/-- A message may be folded in parts. -/
theorem crcFold_append (W : Nat) (refin : Bool) (tab : Vector Word 256) (reg : Word) (a b : List Byte) :
    crcFold W refin tab reg (a ++ b) = crcFold W refin tab (crcFold W refin tab reg a) b :=
  List.foldl_append

end Sys2Proof.Machine
end

