-- ==== Sys2Proof/Laws/Galois.lean ====
section
/-! SUPPORT. The powers of the generator that the table build walks through, and what its assertion says of them. -/

namespace Sys2Proof.Machine

@[simp] theorem length_gfPowers (poly : BitVec 9) (gen : Byte) (n : Nat) (v : Byte) :
    (gfPowers poly gen n v).length = n := by
  induction n generalizing v with
  | zero => rfl
  | succ n ih => simp [gfPowers, ih]

/-- Starting from `gen^k`, entry i of the walk is `gen^(k+i)`. -/
theorem getD_gfPowers (poly : BitVec 9) (gen : Byte) (n k i : Nat) (h : i < n) :
    (gfPowers poly gen n (gfPowx poly gen k)).getD i 0 = gfPowx poly gen (k + i) := by
  induction n generalizing k i with
  | zero => omega
  | succ n ih =>
    cases i with
    | zero => rfl
    | succ i =>
      have := ih (k + 1) i (by omega)
      rw [show k + (i + 1) = k + 1 + i by omega, ← this]
      rfl

/-- Entry i of the walk from 1 is `gen^i`. -/
theorem getD_gfPowers_one (poly : BitVec 9) (gen : Byte) (n i : Nat) (h : i < n) :
    (gfPowers poly gen n 1).getD i 0 = gfPowx poly gen i := by
  have := getD_gfPowers poly gen n 0 i h
  rwa [Nat.zero_add] at this

/-- A list that marks without a clash repeats no byte, and none that was marked before; the marks afterwards are those
before and the bytes of the list. -/
theorem markOnce_spec (l : List Byte) (seen m : Nat) (h : markOnce l seen = some m) :
    l.Nodup ∧ (∀ v ∈ l, seen.testBit v.toNat = false) ∧
      ∀ k, m.testBit k = (seen.testBit k || decide (∃ v ∈ l, v.toNat = k)) := by
  induction l generalizing seen with
  | nil => simp_all [markOnce]
  | cons a l ih =>
    simp only [markOnce] at h
    split at h
    · cases h
    · rename_i ha
      obtain ⟨hn, hs, hm⟩ := ih _ h
      have key : ∀ v ∈ l, seen.testBit v.toNat = false ∧ v ≠ a := by
        intro v hv
        have := hs v hv
        simp only [Nat.testBit_or, Bool.or_eq_false_iff, Nat.one_shiftLeft, Nat.testBit_two_pow] at this
        refine ⟨this.1, fun e => ?_⟩
        subst e
        simp at this
      refine ⟨List.nodup_cons.2 ⟨fun h' => (key a h').2 rfl, hn⟩, ?_, ?_⟩
      · rintro v (_ | ⟨_, hv⟩)
        · simpa using ha
        · exact (key v hv).1
      · intro k
        simp only [hm k, Nat.testBit_or, Nat.one_shiftLeft, Nat.testBit_two_pow, Bool.or_assoc, List.mem_cons,
          exists_eq_or_imp, Bool.decide_or]

/-- The test that the table build makes is the startup assertion of the definition, in one direction: what it accepts
has degree 8, distinct powers and the right order. -/
theorem generatorOk_of_gfTablesOk {s : State} (h : gfTablesOk s.fieldPoly s.fieldGen = true) : s.GeneratorOk := by
  simp only [gfTablesOk, Bool.and_eq_true, beq_iff_eq] at h
  obtain ⟨⟨hdeg, hmark⟩, hlast⟩ := h
  obtain ⟨hnodup, -, -⟩ := markOnce_spec _ _ _ hmark
  refine ⟨hdeg, fun i hi j hj hij => ?_, by rw [← hlast, getD_gfPowers_one _ _ _ _ (by omega)]; rfl⟩
  have hlen := length_gfPowers s.fieldPoly s.fieldGen 255 1
  have hi' := getD_gfPowers_one s.fieldPoly s.fieldGen 255 i hi
  have hj' := getD_gfPowers_one s.fieldPoly s.fieldGen 255 j hj
  rw [List.getD_eq_getElem _ _ (by omega)] at hi' hj'
  exact (List.Nodup.getElem_inj_iff hnodup).1 (by rw [hi', hj']; exact hij)

/-- INIT with parameters that pass the assertion. -/
theorem execInit_ok {s : State} (h : gfTablesOk s.fieldPoly s.fieldGen = true) :
    execInit s = .next (State.complete { s with
      tables := gfBuildTables s.fieldPoly s.fieldGen, status := { s.status with frdy := true } } .ok 0) := by
  rw [execInit, runCommand_require, if_pos h]
  rfl

/-- INIT with parameters that fail it. -/
theorem execInit_fails {s : State} (h : gfTablesOk s.fieldPoly s.fieldGen = false) :
    execInit s = .next (s.complete (.failure .invalidParameters) 0) := by
  rw [execInit, runCommand_require, if_neg (by simp [h])]

end Sys2Proof.Machine
end

