-- ==== Sys2Proof/Laws/Invariant.lean ====
section
/-! SUPPORT. The operations keep the invariant, one lemma each, and when a written state is still ready. -/

namespace Sys2Proof.Machine

/-- A scalar register write keeps the invariant. -/
theorem inv_setX {s : State} (h : s.Inv) (r : XReg) (w : Word) : (s.setX r w).Inv where
  vectorsFit := h.vectorsFit
  crcCfgReserved := h.crcCfgReserved
  lfsrCfgReserved := h.lfsrCfgReserved
  lastProduced := h.lastProduced
  stickyProduced := h.stickyProduced
  fieldTables := h.fieldTables
  crcTable := h.crcTable
  crcRegFits := h.crcRegFits

/-- A vector register write of at most `VCAP` symbols keeps the invariant. -/
theorem inv_setV {s : State} (h : s.Inv) (r : VReg) {bs : List Byte} (hbs : bs.length ≤ Config.vcap) :
    (s.setV r bs).Inv where
  vectorsFit q := by
    by_cases hq : q = r
    · subst hq; simpa using hbs
    · rw [setV_read_other s r q bs hq]; exact h.vectorsFit q
  crcCfgReserved := h.crcCfgReserved
  lfsrCfgReserved := h.lfsrCfgReserved
  lastProduced := h.lastProduced
  stickyProduced := h.stickyProduced
  fieldTables := h.fieldTables
  crcTable := h.crcTable
  crcRegFits := h.crcRegFits

/-- Completing `OK` keeps the invariant. -/
theorem inv_complete_ok {s : State} (h : s.Inv) (data : Word) : (s.complete .ok data).Inv where
  vectorsFit := h.vectorsFit
  crcCfgReserved := h.crcCfgReserved
  lfsrCfgReserved := h.lfsrCfgReserved
  lastProduced := by simp
  stickyProduced := h.stickyProduced
  fieldTables := h.fieldTables
  crcTable := h.crcTable
  crcRegFits := h.crcRegFits

/-- Completing with a failure other than `InsufficientShares` keeps the invariant. -/
theorem inv_complete_failure {s : State} (h : s.Inv) {f : Failure} (hf : f ≠ .insufficientShares) (data : Word) :
    (s.complete (.failure f) data).Inv where
  vectorsFit := h.vectorsFit
  crcCfgReserved := h.crcCfgReserved
  lfsrCfgReserved := h.lfsrCfgReserved
  lastProduced := by simpa using hf
  stickyProduced := by
    have hs := h.stickyProduced
    cases f <;> simp_all [stickyBit, failureNumber]
  fieldTables := h.fieldTables
  crcTable := h.crcTable
  crcRegFits := h.crcRegFits

/-- Taking an input or presenting one keeps the invariant: it says nothing of the ports. -/
theorem inv_inputs {s : State} (h : s.Inv) (l : List Input) : State.Inv { s with inputs := l } where
  vectorsFit := h.vectorsFit
  crcCfgReserved := h.crcCfgReserved
  lfsrCfgReserved := h.lfsrCfgReserved
  lastProduced := h.lastProduced
  stickyProduced := h.stickyProduced
  fieldTables := h.fieldTables
  crcTable := h.crcTable
  crcRegFits := h.crcRegFits

/-- Register writes leave the field tables ready. -/
theorem fieldReady_setX {s : State} (h : s.FieldReady) (r : XReg) (w : Word) : (s.setX r w).FieldReady :=
  ⟨inv_setX h.1 r w, h.2⟩

theorem fieldReady_setV {s : State} (h : s.FieldReady) (r : VReg) {bs : List Byte} (hbs : bs.length ≤ Config.vcap) :
    (s.setV r bs).FieldReady :=
  ⟨inv_setV h.1 r hbs, h.2⟩

/-- Register writes leave the CRC unit ready. -/
theorem crcReady_setX {s : State} (h : s.CrcReady) (r : XReg) (w : Word) : (s.setX r w).CrcReady :=
  ⟨inv_setX h.1 r w, h.2⟩

theorem crcReady_setV {s : State} (h : s.CrcReady) (r : VReg) {bs : List Byte} (hbs : bs.length ≤ Config.vcap) :
    (s.setV r bs).CrcReady :=
  ⟨inv_setV h.1 r hbs, h.2⟩

end Sys2Proof.Machine
end

