-- ==== Sys2Proof/Laws/Polynomial.lean ====
section
/-! SUPPORT. What trimming, adding and multiplying coefficient lists do to lengths and forms. -/

namespace Sys2Proof.Machine

/-- Trimming keeps a non-empty list non-empty (43_polynomial.md R161). -/
theorem polyTrim_ne_nil {p : List Byte} (h : p ≠ []) : polyTrim p ≠ [] := by
  cases p with
  | nil => exact absurd rfl h
  | cons c cs =>
    simp only [polyTrim]
    split
    · simp
    · split <;> simp

/-- Trimming removes zeros at the end and nothing else. -/
theorem polyTrim_append (p : List Byte) : ∃ m, p = polyTrim p ++ List.replicate m 0 := by
  induction p with
  | nil => exact ⟨0, rfl⟩
  | cons c cs ih =>
    obtain ⟨m, hm⟩ := ih
    simp only [polyTrim]
    split
    · rename_i h
      rw [h] at hm
      exact ⟨m, by rw [hm]; simp⟩
    · rename_i a l h
      rw [h] at hm
      split
      · rename_i hz
        obtain ⟨rfl, rfl⟩ := hz
        exact ⟨m + 1, by rw [hm]; simp [List.replicate_succ]⟩
      · exact ⟨m, by rw [hm]; simp⟩

/-- Trimming never makes a list longer. -/
theorem length_polyTrim_le (p : List Byte) : (polyTrim p).length ≤ p.length := by
  obtain ⟨m, hm⟩ := polyTrim_append p
  have := congrArg List.length hm
  simp at this
  omega

/-- The result of trimming a non-empty list is in canonical form (00_scope.md R11). -/
theorem canonical_polyTrim {p : List Byte} (h : p ≠ []) : Canonical (polyTrim p) := by
  induction p with
  | nil => exact absurd rfl h
  | cons c cs ih =>
    simp only [polyTrim]
    split
    · by_cases hc : c = 0
      · exact .inl (by rw [hc])
      · exact .inr ⟨c, rfl, hc⟩
    · rename_i a l ha
      have hcs : cs ≠ [] := by rintro rfl; simp [polyTrim] at ha
      have hih := ih hcs
      rw [ha] at hih
      split
      · by_cases hc : c = 0
        · exact .inl (by rw [hc])
        · exact .inr ⟨c, rfl, hc⟩
      · rename_i hz
        rcases hih with h0 | ⟨d, hd, hd0⟩
        · simp only [List.cons.injEq] at h0
          exact absurd h0 hz
        · exact .inr ⟨d, by rw [List.getLast?_cons_cons]; exact hd, hd0⟩

/-- A list whose last element is not zero is trimmed already. -/
theorem polyTrim_of_getLast {p : List Byte} {c : Byte} (h : p.getLast? = some c) (hc : c ≠ 0) : polyTrim p = p := by
  obtain ⟨m, hm⟩ := polyTrim_append p
  cases m with
  | zero => simpa using hm.symm
  | succ m =>
    rw [hm, List.replicate_succ', ← List.append_assoc, List.getLast?_append] at h
    simp at h
    exact absurd h.symm hc

/-- A list of equal nonzero elements is trimmed already. -/
theorem polyTrim_replicate {c : Byte} (hc : c ≠ 0) (n : Nat) : polyTrim (List.replicate n c) = List.replicate n c := by
  cases n with
  | zero => rfl
  | succ n => exact polyTrim_of_getLast (c := c) (by simp [List.getLast?_replicate]) hc

/-- Adding keeps the longer length. -/
@[simp] theorem length_polyAdd (p q : List Byte) : (polyAdd p q).length = max p.length q.length := by
  induction p generalizing q with
  | nil => simp [polyAdd]
  | cons a p ih => cases q <;> simp [polyAdd, ih]

@[simp] theorem length_polyScale (t : FieldTables) (c : Byte) (p : List Byte) : (polyScale t c p).length = p.length := by
  simp [polyScale]

/-- The untrimmed product of non-empty lists has one element less than both together (R163). -/
theorem length_polyConv (t : FieldTables) {p q : List Byte} (hp : p ≠ []) (hq : q ≠ []) :
    (polyConv t p q).length = p.length + q.length - 1 := by
  induction p with
  | nil => exact absurd rfl hp
  | cons a p ih =>
    have hq' := List.length_pos_iff.2 hq
    cases p with
    | nil => simp [polyConv]
    | cons b p =>
      simp only [polyConv, length_polyAdd, length_polyScale, List.length_cons, ih (by simp)]
      omega

/-- Coefficient k of a sum. -/
theorem coeff_polyAdd (p q : List Byte) (k : Nat) : coeff (polyAdd p q) k = coeff p k ^^^ coeff q k := by
  induction p generalizing q k with
  | nil => simp [polyAdd, coeff]
  | cons a p ih =>
    cases q with
    | nil => simp [polyAdd, coeff]
    | cons b q =>
      cases k with
      | zero => simp [polyAdd, coeff, gfAdd]
      | succ k => simpa [polyAdd, coeff] using ih q k

/-- A product has at most one element less than both operands together. -/
theorem length_polyMul_le (t : FieldTables) (p q : List Byte) : (polyMul t p q).length ≤ p.length + q.length - 1 := by
  have hp := length_polyTrim_le p
  have hq := length_polyTrim_le q
  refine le_trans (length_polyTrim_le _) ?_
  by_cases h0 : polyTrim p = []
  · simp [h0, polyConv]
  · by_cases h1 : polyTrim q = []
    · have : ∀ a : List Byte, polyConv t a [] = List.replicate (a.length - 1) 0 := by
        intro a
        induction a with
        | nil => rfl
        | cons b a ih =>
          cases a with
          | nil => rfl
          | cons c a => simp [polyConv, polyScale, polyAdd, ih, List.replicate_succ]
      have h2 : q = [] := by
        by_contra hne
        exact polyTrim_ne_nil hne h1
      rw [h1, this, h2]
      simp
      omega
    · rw [length_polyConv t h0 h1]
      omega

@[simp] theorem length_polyAddAt (k : Nat) (q p : List Byte) (h : k ≤ p.length) :
    (polyAddAt k q p).length = max p.length (k + q.length) := by
  simp [polyAddAt, List.length_take, h]
  omega

/-- The long division adds one quotient coefficient a turn. -/
theorem length_divLoop_quotient (t : FieldTables) (d : List Byte) (dd : Nat) (linv : Byte) (k : Nat)
    (rem quo : List Byte) : (divLoop t d dd linv k rem quo).1.length = k + quo.length := by
  induction k generalizing rem quo with
  | zero => simp [divLoop]
  | succ k ih => simp [divLoop, ih]; omega

/-- Quotient and remainder are no longer than the dividend, or have one element. -/
theorem length_divTrimmed_le (t : FieldTables) (p d : List Byte) :
    (divTrimmed t p d).1.length ≤ max p.length 1 ∧ (divTrimmed t p d).2.length ≤ max p.length 1 := by
  simp only [divTrimmed]
  split
  · simp
  · refine ⟨le_trans (length_polyTrim_le _) ?_, le_trans (length_polyTrim_le _) ?_⟩
    · rw [length_divLoop_quotient]; simp
    · split
      · simp only [List.length_take]
        omega
      · simp

end Sys2Proof.Machine
end

