-- ==== Sys2Proof/Laws/ReedSolomon.lean ====
section
/-! SUPPORT. The lengths of what the Reed-Solomon units compute. -/

namespace Sys2Proof.Machine

/-- The generator polynomial of r parity symbols has at most r + 1 coefficients (44_rs_encode.md R180). -/
theorem length_rsGenerator_le (t : FieldTables) (gen : Byte) (r : Nat) : (rsGenerator t gen r).length ≤ r + 1 := by
  unfold rsGenerator
  induction r with
  | zero => simp
  | succ r ih =>
    rw [List.range_succ, List.foldl_append]
    refine le_trans (length_polyMul_le _ _ _) ?_
    simp only [List.length_cons, List.length_nil]
    omega

@[simp] theorem length_padTo (r : Nat) (p : List Byte) : (padTo r p).length = r := by
  simp [padTo]

/-- A codeword has k + r symbols (R182). -/
@[simp] theorem length_rsEncodeWord (t : FieldTables) (gen : Byte) (data : List Byte) (r : Nat) :
    (rsEncodeWord t gen data r).length = data.length + r := by
  simp [rsEncodeWord]

/-- There are r syndromes (45_rs_decode.md R192). -/
@[simp] theorem length_rsSyndromes (t : FieldTables) (gen : Byte) (recv : List Byte) (r : Nat) :
    (rsSyndromes t gen recv r).length = r := by
  simp [rsSyndromes]

/-- The evaluator is cut at the number of syndromes (R194). -/
theorem length_rsEvaluator_le (t : FieldTables) (syn psi : List Byte) :
    (rsEvaluator t syn psi).length ≤ max syn.length 1 := by
  unfold rsEvaluator
  split
  · simp
  · refine le_trans (length_polyTrim_le _) ?_
    simp only [List.length_take]
    omega

/-- There are at most 255 roots (R195). -/
theorem length_rsChien_le (t : FieldTables) (lam : List Byte) : (rsChien t lam).length ≤ 255 := by
  refine le_trans (List.length_filter_le _ _) ?_
  simp

/-- One magnitude for each location (R197). -/
theorem length_rsForney {t : FieldTables} {om psi : List Byte} {locs : List Nat} {mags : List Byte}
    (h : rsForney t om psi locs = .ok mags) : mags.length = locs.length := by
  induction locs generalizing mags with
  | nil => simp only [rsForney, Except.ok.injEq] at h; subst h; rfl
  | cons d ds ih =>
    obtain ⟨m, -, h⟩ := bind_ok_inv h
    obtain ⟨ms, hms, h⟩ := bind_ok_inv h
    simp only [return_ok, Except.ok.injEq] at h
    subst h
    simp [ih hms]

/-- Correcting symbols keeps the word's length. -/
@[simp] theorem length_correctAll (w : List Byte) (n : Nat) (errata : List (Nat × Byte)) :
    (correctAll w n errata).length = w.length := by
  unfold correctAll
  induction errata generalizing w with
  | nil => rfl
  | cons e es ih => rw [List.foldl_cons, ih]; simp

/-- Erasing symbols keeps the word's length. -/
@[simp] theorem length_eraseAll (recv erased : List Byte) : (eraseAll recv erased).length = recv.length := by
  unfold eraseAll
  induction erased generalizing recv with
  | nil => rfl
  | cons e es ih => rw [List.foldl_cons, ih]; simp

/-- What the decoder answers when it succeeds is no longer than the word it received (R200). -/
theorem length_rsDecode_le {t : FieldTables} {gen : Byte} {recv : List Byte} {r : Nat} {erased data : List Byte}
    (h : rsDecode t gen recv r erased = .ok data) : data.length ≤ recv.length := by
  simp only [rsDecode, require_bind] at h
  repeat' split at h
  all_goals try cases h
  obtain ⟨mags, -, h⟩ := bind_ok_inv h
  split at h
  · simp only [return_ok, Except.ok.injEq] at h
    subst h
    simp only [List.length_take, length_correctAll, length_eraseAll]
    omega
  · cases h

end Sys2Proof.Machine
end

