-- ==== Sys2Proof/Laws/Effect.lean ====
section
/-! SUPPORT. Said once: everything a command can do. A proof about all commands takes the cases of `exec_effect` instead
of unfolding the 43 meanings. -/

namespace Sys2Proof.Machine

/-- Every command is one run of some body. -/
theorem exec_runCommand (i : Instr) (s : State) : ∃ body, exec i s = runCommand s body := by
  cases i <;> first
    | exact ⟨_, by rfl⟩
    | (simp only [exec, execNop, execRd, execLi, execLih, execMov, execGfadd, execVclr, execVlen, execVmov, execVrev]
       exact ⟨_, rfl⟩)

/-- A command always answers a next state. -/
theorem exec_answers (i : Instr) (s : State) : ∃ t, exec i s = .next t := by
  obtain ⟨body, h⟩ := exec_runCommand i s
  rw [h]
  exact runCommand_answers s body

/-- A step always answers a next state. -/
theorem step_answers (s : State) : ∃ t, step s = .next t := by
  unfold step
  split
  · exact ⟨_, rfl⟩
  · exact ⟨_, rfl⟩
  · unfold execWord
    split
    · exact exec_answers _ _
    · exact runCommand_answers _ _

/-- What a command that succeeds does to the state before it completes, and its response's data. A vector written fits
its register when the registers of `s` do. -/
inductive Effect (s : State) : Instr → State → Word → Prop
  | nop : Effect s .nop s 0
  | rd (rs : XReg) : Effect s (.rd rs) s s.x[rs]
  | scalar {i : Instr} (r : XReg) (w : Word) : r ∈ scalarDests i → Effect s i (s.setX r w) 0
  | vector {i : Instr} (r : VReg) (l : List Byte) : r ∈ vectorDests i →
      ((∀ q : VReg, s.v[q].length ≤ 256) → l.length ≤ 256) → Effect s i (s.setV r l) 0
  | vectorScalar {i : Instr} (r : VReg) (l : List Byte) (q : XReg) (w : Word) : r ∈ vectorDests i → q ∈ scalarDests i →
      ((∀ q : VReg, s.v[q].length ≤ 256) → l.length ≤ 256) → Effect s i ((s.setV r l).setX q w) 0
  | twoVectors {i : Instr} (r : VReg) (l : List Byte) (q : VReg) (m : List Byte) : r ∈ vectorDests i → q ∈ vectorDests i →
      ((∀ q : VReg, s.v[q].length ≤ 256) → l.length ≤ 256 ∧ m.length ≤ 256) → Effect s i ((s.setV r l).setV q m) 0
  | init : gfTablesOk s.fieldPoly s.fieldGen = true → Effect s .init { s with
      tables := gfBuildTables s.fieldPoly s.fieldGen, status := { s.status with frdy := true } } 0
  | crcinit : s.crcConfigOk → Effect s .crcinit { s with
      crctab := crcBuildTable s.crcWidth s.crcPoly, crcReg := s.crcInit, status := { s.status with crdy := true } } 0
  | crcrst : s.status.crdy = true → Effect s .crcrst { s with crcReg := s.crcInit } 0
  | crcupd (vs : VReg) : s.status.crdy = true →
      Effect s (.crcupd vs) { s with crcReg := s.crcRegAfter s.crcReg s.v[vs] } 0
  | crc (rd : XReg) (vs : VReg) (w : Word) : s.status.crdy = true →
      Effect s (.crc rd vs) ({ s with crcReg := s.crcRegAfter s.crcInit s.v[vs] }.setX rd w) 0
  | lfsrseed (rs : XReg) : Effect s (.lfsrseed rs) { s with lfsrState := s.x[rs] } 0
  | lfsrstep (rd : XReg) (st w : Word) : Effect s (.lfsrstep rd) ({ s with lfsrState := st }.setX rd w) 0
  | lfsrn (rd : XReg) (count : Byte) (st w : Word) :
      Effect s (.lfsrn rd count) ({ s with lfsrState := st }.setX rd w) 0
  | csrwStatus (rs : XReg) : s.x[rs] &&& 0xFFFF000C#32 = 0 →
      Effect s (.csrw 0x00 rs) { s with status := clearSticky s.status s.x[rs] } 0
  | csrwCrcCfg (rs : XReg) : s.x[rs] &&& 0xFFFFFCC0#32 = 0 →
      Effect s (.csrw 0x10 rs) { s with crcCfg := s.x[rs] }.clearCrdy 0
  | csrwCrcPoly (rs : XReg) : Effect s (.csrw 0x11 rs) { s with crcPoly := s.x[rs] }.clearCrdy 0
  | csrwCrcInit (rs : XReg) : Effect s (.csrw 0x12 rs) { s with crcInit := s.x[rs] }.clearCrdy 0
  | csrwCrcXorout (rs : XReg) : Effect s (.csrw 0x13 rs) { s with crcXorout := s.x[rs] }.clearCrdy 0
  | csrwCrcReg (rs : XReg) : s.status.crdy = true → s.x[rs].toNat < 2 ^ s.crcWidth →
      Effect s (.csrw 0x14 rs) { s with crcReg := s.x[rs] } 0
  | csrwLfsrCfg (rs : XReg) : s.x[rs] &&& 0xFFFFFEC0#32 = 0 →
      Effect s (.csrw 0x20 rs) { s with lfsrCfg := s.x[rs] } 0
  | csrwLfsrTaps (rs : XReg) : Effect s (.csrw 0x21 rs) { s with lfsrTaps := s.x[rs] } 0

/-- The number of a control register (10_state.md R46). -/
def csrNumber : Csr → Byte
  | .status => 0x00 | .fieldPoly => 0x01 | .fieldGen => 0x02 | .crcCfg => 0x10 | .crcPoly => 0x11 | .crcInit => 0x12
  | .crcXorout => 0x13 | .crcReg => 0x14 | .lfsrCfg => 0x20 | .lfsrTaps => 0x21 | .lfsrState => 0x22

/-- A number that names a control register is that register's number. -/
theorem eq_csrNumber {csr : Byte} {c : Csr} (h : csrOfNumber csr = some c) : csr = csrNumber c := by
  revert h
  unfold csrOfNumber
  split <;> intro h <;> cases h <;> rfl

/-- A name is answered exactly for a number that has one. -/
theorem namedCsr_ok {csr : Byte} {c : Csr} (h : namedCsr csr = .ok c) : csrOfNumber csr = some c := by
  unfold namedCsr at h
  split at h
  · cases h
  · simp_all

/-- Two bit fields of a word are zero exactly when the word is zero under the mask that covers them. -/
theorem fields_zero_iff (w mask : Word) (a n b m : Nat)
    (hmask : ∀ i < 32, mask.getLsbD i = decide ((a ≤ i ∧ i < a + n) ∨ (b ≤ i ∧ i < b + m))) :
    (w.extractLsb' a n = 0 ∧ w.extractLsb' b m = 0) ↔ w &&& mask = 0 := by
  have field : ∀ a n, w.extractLsb' a n = 0 ↔ ∀ i, a ≤ i → i < a + n → w.getLsbD i = false := by
    refine fun a n => ⟨fun h i h1 h2 => ?_, fun h => BitVec.eq_of_getLsbD_eq fun i hi => ?_⟩
    · have := congrArg (·.getLsbD (i - a)) h
      simpa [BitVec.getLsbD_extractLsb', show i - a < n by omega, show a + (i - a) = i by omega] using this
    · simpa [BitVec.getLsbD_extractLsb', hi] using h (a + i) (by omega) (by omega)
  rw [field, field]
  refine ⟨fun h => BitVec.eq_of_getLsbD_eq fun i hi => ?_, fun h => ?_⟩
  · rw [BitVec.getLsbD_and, hmask i hi]
    by_cases hc : (a ≤ i ∧ i < a + n) ∨ (b ≤ i ∧ i < b + m)
    · rw [hc.elim (fun hc => h.1 i hc.1 hc.2) (fun hc => h.2 i hc.1 hc.2)]; simp
    · rw [decide_eq_false hc, Bool.and_false]; simp
  · have key : ∀ i, (a ≤ i ∧ i < a + n) ∨ (b ≤ i ∧ i < b + m) → w.getLsbD i = false := by
      intro i hc
      by_cases hi : i < 32
      · have := congrArg (·.getLsbD i) h
        simpa [hmask i hi, hc] using this
      · exact BitVec.getLsbD_of_ge _ _ (by omega)
    exact ⟨fun i h1 h2 => key i (.inl ⟨h1, h2⟩), fun i h1 h2 => key i (.inr ⟨h1, h2⟩)⟩

/-- The reserved bits of `STATUS` are zero exactly when the two fields that CSRW checks are (R32). -/
theorem status_reserved_iff (w : Word) :
    (w.extractLsb' 2 2 = 0 ∧ w.extractLsb' 16 16 = 0) ↔ w &&& 0xFFFF000C#32 = 0 :=
  fields_zero_iff w _ _ _ _ _ (by decide)

/-- The reserved bits of `CRC_CFG` are zero exactly when the two fields that CSRW checks are (R37). -/
theorem crcCfg_reserved_iff (w : Word) :
    (w.extractLsb' 6 2 = 0 ∧ w.extractLsb' 10 22 = 0) ↔ w &&& 0xFFFFFCC0#32 = 0 :=
  fields_zero_iff w _ _ _ _ _ (by decide)

/-- The reserved bits of `LFSR_CFG` are zero exactly when the two fields that CSRW checks are (R43). -/
theorem lfsrCfg_reserved_iff (w : Word) :
    (w.extractLsb' 6 2 = 0 ∧ w.extractLsb' 9 23 = 0) ↔ w &&& 0xFFFFFEC0#32 = 0 :=
  fields_zero_iff w _ _ _ _ _ (by decide)

/-- Everything a CSRW that succeeds does. -/
theorem csrw_effect {s : State} {rs : XReg} {c : Csr} {d : Done} (h : writeCsr s s.x[rs] c = .ok d) :
    Effect s (.csrw (csrNumber c) rs) d.state d.data := by
  cases c <;> simp only [writeCsr, require_bind] at h
  case status =>
    split at h
    · simp only [done, Except.ok.injEq] at h; subst h; exact .csrwStatus rs ((status_reserved_iff _).1 ‹_›)
    · cases h
  case crcCfg =>
    split at h
    · simp only [done, Except.ok.injEq] at h; subst h; exact .csrwCrcCfg rs ((crcCfg_reserved_iff _).1 ‹_›)
    · cases h
  case crcPoly => simp only [done, Except.ok.injEq] at h; subst h; exact .csrwCrcPoly rs
  case crcInit => simp only [done, Except.ok.injEq] at h; subst h; exact .csrwCrcInit rs
  case crcXorout => simp only [done, Except.ok.injEq] at h; subst h; exact .csrwCrcXorout rs
  case crcReg =>
    split at h
    · split at h
      · simp only [done, Except.ok.injEq] at h; subst h; exact .csrwCrcReg rs ‹_› ‹_›
      · cases h
    · cases h
  case lfsrCfg =>
    split at h
    · simp only [done, Except.ok.injEq] at h; subst h; exact .csrwLfsrCfg rs ((lfsrCfg_reserved_iff _).1 ‹_›)
    · cases h
  case lfsrTaps => simp only [done, Except.ok.injEq] at h; subst h; exact .csrwLfsrTaps rs
  all_goals cases h

/-- Everything a command can do: complete with a failure, or have one of the effects and complete `OK`. -/
theorem exec_effect {i : Instr} {s t : State} (h : exec i s = .next t) :
    (∃ f, t = s.complete (.failure f) 0) ∨ ∃ d data, Effect s i d data ∧ t = d.complete .ok data := by
  obtain ⟨body, hbody⟩ := exec_runCommand i s
  cases i <;> simp only [exec, execNop, execCsrr, execCsrw, execRd, execLi, execLih, execMov, execTblrd,
      execGfadd, execGfmul, execGfinv, execGfpow, execGfdiv, execVclr, execVpushi, execVpush, execVget, execVlen,
      execVmov, execVrev, execVset, execPeval, execPmul, execPdivmod, execPtrim, execRsgen, execRsenc, execRssyn,
      execRsloc, execRseval, execRschien, execRsforn, execRsdec, execRsdece, execCrcrst, execCrcupd,
      execCrcfin, execCrc, execLfsrseed, execLfsrstep, execLfsrn] at h
  case init =>
    by_cases ht : gfTablesOk s.fieldPoly s.fieldGen = true
    · rw [execInit_ok ht] at h; cases h; exact .inr ⟨_, _, .init ht, rfl⟩
    · rw [execInit_fails (by simpa using ht)] at h; cases h; exact .inl ⟨_, rfl⟩
  case crcinit =>
    by_cases ht : s.crcConfigOk
    · rw [execCrcinit_ok ht] at h; cases h; exact .inr ⟨_, _, .crcinit ht, rfl⟩
    · rw [execCrcinit_fails ht] at h; cases h; exact .inl ⟨_, rfl⟩
  all_goals
    rcases runCommand_cases h with ⟨f, -, rfl⟩ | ⟨d, hb, rfl⟩
    · exact .inl ⟨f, rfl⟩
    refine .inr ⟨d.state, d.data, ?_, rfl⟩
    clear h hbody body
    try simp only [require_bind] at hb
  case csrw csr rs =>
    obtain ⟨c, hc, hb⟩ := bind_ok_inv hb
    split at hb
    · rw [eq_csrNumber (namedCsr_ok hc)]; exact csrw_effect hb
    · cases hb
  case csrr rd csr =>
    obtain ⟨c, hc, hb⟩ := bind_ok_inv hb
    cases hb
    exact .scalar _ _ (by simp [scalarDests])
  case tblrd rd sel rs =>
    split at hb
    · cases hb
    · obtain ⟨c, hc, hb⟩ := bind_ok_inv hb
      cases hb
      exact .scalar _ _ (by simp [scalarDests])
  case rd rs => simp only [Except.ok.injEq] at hb; subst hb; exact .rd rs
  case pdivmod vq vr vs vt =>
    repeat' split at hb
    all_goals try cases hb
    obtain ⟨qr, hq, hb⟩ := bind_ok_inv hb
    cases hb
    refine .twoVectors _ _ _ _ (by simp [vectorDests]) (by simp [vectorDests]) fun hv => ?_
    obtain ⟨u, -, hq⟩ := bind_ok_inv hq
    simp only [return_ok, Except.ok.injEq] at hq; subst hq
    have h1 := length_divTrimmed_le s.tables (polyTrim s.v[vs]) (polyTrim s.v[vt])
    have h2 := length_polyTrim_le s.v[vs]
    have h3 := hv vs
    omega
  case rsdec vd vs rt =>
    split at hb
    · obtain ⟨l, hl, hb⟩ := bind_ok_inv hb
      cases hb
      exact .vector _ _ (by simp [vectorDests]) fun hv => le_trans (length_rsDecode_le hl) (hv vs)
    · cases hb
  case rsdece vd vs rt ve =>
    split at hb
    · obtain ⟨l, hl, hb⟩ := bind_ok_inv hb
      cases hb
      exact .vector _ _ (by simp [vectorDests]) fun hv => le_trans (length_rsDecode_le hl) (hv vs)
    · cases hb
  case rsforn vd vs vt vu =>
    repeat' split at hb
    all_goals try cases hb
    obtain ⟨l, hl, hb⟩ := bind_ok_inv hb
    cases hb
    exact .vector _ _ (by simp [vectorDests]) fun hv => by simpa [length_rsForney hl] using hv vu
  case gfinv rd rs =>
    split at hb
    · obtain ⟨c, hc, hb⟩ := bind_ok_inv hb
      cases hb
      exact .scalar _ _ (by simp [scalarDests])
    · cases hb
  case gfdiv rd rs rt =>
    split at hb
    · obtain ⟨c, hc, hb⟩ := bind_ok_inv hb
      cases hb
      exact .scalar _ _ (by simp [scalarDests])
    · cases hb
  all_goals
    repeat' split at hb
    all_goals try cases hb
  case nop => exact .nop
  case crcrst => exact .crcrst ‹_›
  case crcupd => exact .crcupd _ ‹_›
  case crc => exact .crc _ _ _ ‹_›
  case lfsrseed => exact .lfsrseed _
  case lfsrstep => exact .lfsrstep _ _ _
  case lfsrn => exact .lfsrn _ _ _ _
  case rsloc => exact .vectorScalar _ _ _ _ (by simp [vectorDests]) (by simp [scalarDests]) fun _ => ‹_›
  case rschien =>
    exact .vectorScalar _ _ _ _ (by simp [vectorDests]) (by simp [scalarDests]) fun _ => by
      simpa using le_trans (length_rsChien_le _ _) (by omega)
  case vclr => exact .vector _ _ (by simp [vectorDests]) fun _ => by simp
  case vpushi hlt => exact .vector _ _ (by simp [vectorDests]) fun _ => by simpa [Config.vcap] using hlt
  case vpush hlt => exact .vector _ _ (by simp [vectorDests]) fun _ => by simpa [Config.vcap] using hlt
  case vmov vd vs => exact .vector _ _ (by simp [vectorDests]) fun hv => hv vs
  case vrev vd vs => exact .vector _ _ (by simp [vectorDests]) fun hv => by simpa using hv vs
  case vset vd rs rt _ => exact .vector _ _ (by simp [vectorDests]) fun hv => by simpa using hv vd
  case pmul => exact .vector _ _ (by simp [vectorDests]) fun _ => ‹_›
  case ptrim vd vs _ => exact .vector _ _ (by simp [vectorDests]) fun hv => le_trans (length_polyTrim_le _) (hv vs)
  case rsgen =>
    exact .vector _ _ (by simp [vectorDests]) fun _ => le_trans (length_rsGenerator_le _ _ _) (by simp_all [Config.parityMax]; omega)
  case rsenc =>
    exact .vector _ _ (by simp [vectorDests]) fun _ => by rw [length_rsEncodeWord]; simp_all [Config.nMax]; omega
  case rssyn =>
    exact .vector _ _ (by simp [vectorDests]) fun _ => by rw [length_rsSyndromes]; simp_all [Config.nMax]; omega
  case rseval vd vs vt _ _ =>
    exact .vector _ _ (by simp [vectorDests]) fun hv => le_trans (length_rsEvaluator_le _ _ _) (by have := hv vs; omega)
  all_goals exact .scalar _ _ (by simp [scalarDests])

end Sys2Proof.Machine
end

