-- ==== Sys2Proof/Laws/PerInstr.lean ====
section
/-! SUPPORT. Per instruction: the opcode map read on the fields that the encoder gives the instruction is the
instruction itself. -/

namespace Sys2Proof.Laws.DecodeFields

/-- The decoder on the encoder's fields of `i` gives `i`. -/
def Statement (i : Instr) : Prop := decodeFields (fieldsOf i) = .ok i

/-- A scalar register number survives its field. -/
@[simp] theorem xField_xBits (r : XReg) : xField (xBits r) = r := rfl

/-- A vector register number survives its field. -/
@[simp] theorem vField_vBits (r : VReg) : vField (vBits r) = .ok r := by
  revert r; decide

/-- `I16` survives being split into its three fields. -/
@[simp] theorem i16_split (imm : BitVec 16) :
    imm.extractLsb' 12 4 ++ imm.extractLsb' 8 4 ++ imm.extractLsb' 0 8 = imm := by
  apply BitVec.eq_of_getLsbD_eq
  intro i hi
  simp only [BitVec.getLsbD_append, BitVec.getLsbD_extractLsb']
  grind

theorem nop : Statement (.nop) := rfl

theorem init : Statement (.init) := rfl

theorem csrr (rd : XReg) (csr : Byte) : Statement (.csrr rd csr) := rfl

theorem csrw (csr : Byte) (rs : XReg) : Statement (.csrw csr rs) := rfl

theorem rd (rs : XReg) : Statement (.rd rs) := rfl

theorem li (rd : XReg) (imm16 : BitVec 16) : Statement (.li rd imm16) := by
  simp [Statement, fieldsOf, decodeFields, formatRI16, unused, Fields.i16, bind, Except.bind, pure, Except.pure]

theorem lih (rd : XReg) (imm16 : BitVec 16) : Statement (.lih rd imm16) := by
  simp [Statement, fieldsOf, decodeFields, formatRI16, unused, Fields.i16, bind, Except.bind, pure, Except.pure]

theorem mov (rd rs : XReg) : Statement (.mov rd rs) := rfl

theorem tblrd (rd : XReg) (sel : Byte) (rs : XReg) : Statement (.tblrd rd sel rs) := rfl

theorem gfadd (rd rs rt : XReg) : Statement (.gfadd rd rs rt) := rfl

theorem gfmul (rd rs rt : XReg) : Statement (.gfmul rd rs rt) := rfl

theorem gfinv (rd rs : XReg) : Statement (.gfinv rd rs) := rfl

theorem gfpow (rd rs rt : XReg) : Statement (.gfpow rd rs rt) := rfl

theorem gfdiv (rd rs rt : XReg) : Statement (.gfdiv rd rs rt) := rfl

theorem vclr (vd : VReg) : Statement (.vclr vd) := by
  simp [Statement, fieldsOf, decodeFields, formatV, unused, bind, Except.bind, pure, Except.pure]

theorem vpushi (vd : VReg) (imm8 : Byte) : Statement (.vpushi vd imm8) := by
  simp [Statement, fieldsOf, decodeFields, formatVI, unused, bind, Except.bind, pure, Except.pure]

theorem vpush (vd : VReg) (rs : XReg) : Statement (.vpush vd rs) := by
  simp [Statement, fieldsOf, decodeFields, formatVS, unused, bind, Except.bind, pure, Except.pure]

theorem vget (rd : XReg) (vs : VReg) (rt : XReg) : Statement (.vget rd vs rt) := by
  simp [Statement, fieldsOf, decodeFields, formatRVR, unused, bind, Except.bind, pure, Except.pure]

theorem vlen (rd : XReg) (vs : VReg) : Statement (.vlen rd vs) := by
  simp [Statement, fieldsOf, decodeFields, formatRV, unused, bind, Except.bind, pure, Except.pure]

theorem vmov (vd vs : VReg) : Statement (.vmov vd vs) := by
  simp [Statement, fieldsOf, decodeFields, formatVV, unused, bind, Except.bind, pure, Except.pure]

theorem vrev (vd vs : VReg) : Statement (.vrev vd vs) := by
  simp [Statement, fieldsOf, decodeFields, formatVV, unused, bind, Except.bind, pure, Except.pure]

theorem vset (vd : VReg) (rs rt : XReg) : Statement (.vset vd rs rt) := by
  simp [Statement, fieldsOf, decodeFields, formatVRR, unused, bind, Except.bind, pure, Except.pure]

theorem peval (rd : XReg) (vs : VReg) (rt : XReg) : Statement (.peval rd vs rt) := by
  simp [Statement, fieldsOf, decodeFields, formatRVR, unused, bind, Except.bind, pure, Except.pure]

theorem pmul (vd vs vt : VReg) : Statement (.pmul vd vs vt) := by
  simp [Statement, fieldsOf, decodeFields, formatVVV, unused, bind, Except.bind, pure, Except.pure]

theorem pdivmod (vq vr vs vt : VReg) : Statement (.pdivmod vq vr vs vt) := by
  simp [Statement, fieldsOf, decodeFields, formatVVVV, unused, bind, Except.bind, pure, Except.pure]

theorem ptrim (vd vs : VReg) : Statement (.ptrim vd vs) := by
  simp [Statement, fieldsOf, decodeFields, formatVV, unused, bind, Except.bind, pure, Except.pure]

theorem rsgen (vd : VReg) (rt : XReg) : Statement (.rsgen vd rt) := by
  simp [Statement, fieldsOf, decodeFields, formatVR, unused, bind, Except.bind, pure, Except.pure]

theorem rsenc (vd vs : VReg) (rt : XReg) : Statement (.rsenc vd vs rt) := by
  simp [Statement, fieldsOf, decodeFields, formatVVR, unused, bind, Except.bind, pure, Except.pure]

theorem rssyn (vd vs : VReg) (rt : XReg) : Statement (.rssyn vd vs rt) := by
  simp [Statement, fieldsOf, decodeFields, formatVVR, unused, bind, Except.bind, pure, Except.pure]

theorem rsloc (vd vs : VReg) (rc : XReg) : Statement (.rsloc vd vs rc) := by
  simp [Statement, fieldsOf, decodeFields, formatVVR, unused, bind, Except.bind, pure, Except.pure]

theorem rseval (vd vs vt : VReg) : Statement (.rseval vd vs vt) := by
  simp [Statement, fieldsOf, decodeFields, formatVVV, unused, bind, Except.bind, pure, Except.pure]

theorem rschien (vd vs : VReg) (rc : XReg) : Statement (.rschien vd vs rc) := by
  simp [Statement, fieldsOf, decodeFields, formatVVR, unused, bind, Except.bind, pure, Except.pure]

theorem rsforn (vd vs vt vu : VReg) : Statement (.rsforn vd vs vt vu) := by
  simp [Statement, fieldsOf, decodeFields, formatVVVV, unused, bind, Except.bind, pure, Except.pure]

theorem rsdec (vd vs : VReg) (rt : XReg) : Statement (.rsdec vd vs rt) := by
  simp [Statement, fieldsOf, decodeFields, decodeRsdec, formatVVR, unused, bind, Except.bind, pure, Except.pure]

theorem rsdece (vd vs : VReg) (rt : XReg) (ve : VReg) : Statement (.rsdece vd vs rt ve) := by
  simp [Statement, fieldsOf, decodeFields, decodeRsdec, formatVVRVE, bind, Except.bind, pure, Except.pure]

theorem crcinit : Statement (.crcinit) := rfl

theorem crcrst : Statement (.crcrst) := rfl

theorem crcupd (vs : VReg) : Statement (.crcupd vs) := by
  simp [Statement, fieldsOf, decodeFields, formatSV, unused, bind, Except.bind, pure, Except.pure]

theorem crcfin (rd : XReg) : Statement (.crcfin rd) := rfl

theorem crc (rd : XReg) (vs : VReg) : Statement (.crc rd vs) := by
  simp [Statement, fieldsOf, decodeFields, formatRV, unused, bind, Except.bind, pure, Except.pure]

theorem lfsrseed (rs : XReg) : Statement (.lfsrseed rs) := rfl

theorem lfsrstep (rd : XReg) : Statement (.lfsrstep rd) := rfl

theorem lfsrn (rd : XReg) (count : Byte) : Statement (.lfsrn rd count) := rfl

end Sys2Proof.Laws.DecodeFields
end

