-- ==== Sys2Proof/Tests/Slice0.lean ====
section
/-! SUPPORT. Tests of the model and witnesses of the statements' hypotheses.

The words and the expected results are the spec's: 30_encoding.md R84 to R91 and the tables of 95_test_vectors.md; the
section of the latter is named at each group. -/

namespace Sys2Proof.Tests

set_option Elab.async false

open Sys2Proof Sys2Proof.Machine

/-! ### Well-formedness: the four conditions of R87 -/

/-- PDIVMOD with vq = vr. -/
theorem test_wf_pdivmod_same : wellFormed (.pdivmod 1 1 2 3) = false := by decide
/-- An undefined control-register number, read and written. -/
theorem test_wf_csr_undefined :
    wellFormed (.csrr 1 0x15) = false ∧ wellFormed (.csrr 6 0x30) = false ∧ wellFormed (.csrw 0x03 1) = false := by
  decide
/-- A read-only control register. -/
theorem test_wf_csrw_read_only :
    wellFormed (.csrw 0x01 1) = false ∧ wellFormed (.csrw 0x02 1) = false ∧ wellFormed (.csrw 0x22 1) = false := by
  decide
/-- A table selector above 2. -/
theorem test_wf_tblrd_selector : wellFormed (.tblrd 2 3 1) = false ∧ wellFormed (.tblrd 2 255 1) = false := by decide
/-- An LFSRN count of 0 is no such condition. -/
theorem test_wf_lfsrn_zero : wellFormed (.lfsrn 1 0) = true ∧ wellFormed (.pdivmod 0 4 0 4) = true := by decide

/-! ### Decoding: words of the spec -/

/-- Every word of the list is the command beside it, and that command's word is it. -/
def wordsAre (l : List (Word × Instr)) : Bool :=
  l.all fun p => (decode p.1).toOption == some p.2 && encode p.2 == p.1

/-- The decoder rejects the word for this reason. -/
def rejects (w : Word) (r : Reject) : Bool :=
  match decode w with
  | .error e => e == r
  | .ok _ => false

theorem test_decode_system : wordsAre
    [(0x00000000, .nop), (0x01000000, .init), (0x02500014, .csrr 5 0x14), (0x03050011, .csrw 0x11 5),
     (0x04010000, .rd 1), (0x05501DB7, .li 5 0x1DB7), (0x061004C1, .lih 1 0x04C1), (0x07420000, .mov 4 2),
     (0x08650002, .tblrd 6 2 5)] = true := by decide +kernel

theorem test_decode_galois : wordsAre
    [(0x10312000, .gfadd 3 1 2), (0x11312000, .gfmul 3 1 2), (0x12310000, .gfinv 3 1), (0x13312000, .gfpow 3 1 2),
     (0x14312000, .gfdiv 3 1 2), (0x11514000, .gfmul 5 1 4)] = true := by decide +kernel

theorem test_decode_vector : wordsAre
    [(0x20100000, .vclr 1), (0x21000009, .vpushi 0 9), (0x22010000, .vpush 0 1), (0x23403000, .vget 4 0 3),
     (0x24200000, .vlen 2 0), (0x25100000, .vmov 1 0), (0x26270000, .vrev 2 7), (0x27135000, .vset 1 3 5)] = true := by
  decide +kernel

theorem test_decode_polynomial : wordsAre
    [(0x30241000, .peval 2 4 1), (0x31421000, .pmul 4 2 1), (0x32230100, .pdivmod 2 3 0 1),
     (0x33640000, .ptrim 6 4)] = true := by decide +kernel

theorem test_decode_reed_solomon : wordsAre
    [(0x40101000, .rsgen 1 1), (0x41102000, .rsenc 1 0 2), (0x42212000, .rssyn 2 1 2), (0x43324000, .rsloc 3 2 4),
     (0x44423000, .rseval 4 2 3), (0x45536000, .rschien 5 3 6), (0x46643500, .rsforn 6 4 3 5),
     (0x47412000, .rsdec 4 1 2), (0x47412301, .rsdece 4 1 2 3)] = true := by decide +kernel

theorem test_decode_crc : wordsAre
    [(0x50000000, .crcinit), (0x51000000, .crcrst), (0x52010000, .crcupd 1), (0x53400000, .crcfin 4),
     (0x54610000, .crc 6 1)] = true := by decide +kernel

theorem test_decode_lfsr : wordsAre
    [(0x60030000, .lfsrseed 3), (0x61600000, .lfsrstep 6), (0x62400010, .lfsrn 4 16)] = true := by decide +kernel

/-- One word of each format family put together field by field (R82): opcode, A, B, C, D, I8. -/
theorem test_decode_by_fields : wordsAre
    [(0x02#8 ++ 15#4 ++ 0#4 ++ 0#4 ++ 0#4 ++ 0x22#8, .csrr 15 0x22),
     (0x14#8 ++ 1#4 ++ 2#4 ++ 3#4 ++ 0#4 ++ 0#8, .gfdiv 1 2 3),
     (0x23#8 ++ 12#4 ++ 7#4 ++ 9#4 ++ 0#4 ++ 0#8, .vget 12 7 9),
     (0x32#8 ++ 1#4 ++ 2#4 ++ 3#4 ++ 4#4 ++ 0#8, .pdivmod 1 2 3 4),
     (0x40#8 ++ 7#4 ++ 0#4 ++ 11#4 ++ 0#4 ++ 0#8, .rsgen 7 11),
     (0x47#8 ++ 1#4 ++ 2#4 ++ 13#4 ++ 5#4 ++ 1#8, .rsdece 1 2 13 5),
     (0x54#8 ++ 14#4 ++ 6#4 ++ 0#4 ++ 0#4 ++ 0#8, .crc 14 6),
     (0x62#8 ++ 10#4 ++ 0#4 ++ 0#4 ++ 0#4 ++ 32#8, .lfsrn 10 32)] = true := by decide +kernel

/-- Section 2.1: words that are no command. -/
theorem test_decode_rejects :
    rejects 0x00000001 .mustBeZero = true ∧ rejects 0x01100000 .mustBeZero = true ∧
    rejects 0x04130000 .mustBeZero = true ∧ rejects 0x09000000 (.unassignedOpcode 0x09) = true ∧
    rejects 0x0F000000 (.unassignedOpcode 0x0F) = true ∧ rejects 0x15312000 (.unassignedOpcode 0x15) = true ∧
    rejects 0xFFFFFFFF (.unassignedOpcode 0xFF) = true ∧ rejects 0x10312001 .mustBeZero = true ∧
    rejects 0x20800000 .vectorField = true ∧ rejects 0x25080000 .vectorField = true ∧
    rejects 0x40111000 .mustBeZero = true ∧ rejects 0x47412302 .erasureTag = true ∧
    rejects 0x47412300 .mustBeZero = true ∧ rejects 0x62100100 .mustBeZero = true := by decide +kernel

/-- The rows of R84 are disjoint: no word matches two of them. Two rows overlap when their patterns agree on the bits
that both masks fix. -/
theorem test_rows_disjoint :
    opcodeRows.Pairwise (fun a b => a.pattern &&& b.mask ≠ b.pattern &&& a.mask) := by decide +kernel

/-- There are 43 rows. -/
theorem test_row_count : opcodeRows.length = 43 := by decide

/-- The interface's reading of a table word. -/
theorem test_decodeTableWord : decodeTableWord 32 0x11312000 = some (.gfmul 3 1 2) ∧ decodeTableWord 32 0x09000000 = none := by
  decide +kernel

/-! ### Small states -/

/-- The state after reset and INIT with the spec's parameters. -/
def readyState : State :=
  { State.reset with
    tables := gfBuildTables Config.fieldPoly Config.fieldGen, status := { State.reset.status with frdy := true } }

/-- The state after reset, a CRC configuration and CRCINIT. -/
def crcState (cfg poly init xorout : Word) : State :=
  let s : State := { State.reset with crcCfg := cfg, crcPoly := poly, crcInit := init, crcXorout := xorout }
  { s with crctab := crcBuildTable s.crcWidth poly, crcReg := init, status := { s.status with crdy := true } }

/-- D0's CRC-32 (section 2.8). -/
def crc32State : State := crcState 0x320 0x04C11DB7 0xFFFFFFFF 0xFFFFFFFF

/-- The state after reset and an LFSR configuration. -/
def lfsrState (cfg taps st : Word) : State := { State.reset with lfsrCfg := cfg, lfsrTaps := taps, lfsrState := st }

/-- A state with some scalar registers written. -/
def withX (s : State) (l : List (XReg × Word)) : State := l.foldl (fun s p => s.setX p.1 p.2) s

/-- A state with some vector registers written. -/
def withV (s : State) (l : List (VReg × List Byte)) : State := l.foldl (fun s p => s.setV p.1 p.2) s

/-- The code and one scalar register after a command. -/
def scalarAfter (i : Instr) (s : State) (r : XReg) : Option (Code × Word) :=
  match exec i s with
  | .next t => some (t.status.last, t.x[r])
  | .fault _ | .refused _ => none

/-- The code and one vector register after a command. -/
def vectorAfter (i : Instr) (s : State) (r : VReg) : Option (Code × List Byte) :=
  match exec i s with
  | .next t => some (t.status.last, t.v[r])
  | .fault _ | .refused _ => none

/-- The code and one control register after a command. -/
def csrAfter (i : Instr) (s : State) (c : Csr) : Option (Code × Word) :=
  match exec i s with
  | .next t => some (t.status.last, t.readCsr c)
  | .fault _ | .refused _ => none

/-- The last response after a step. -/
def responseAfter (s : State) : Option Response :=
  match step s with
  | .next t => t.responses.getLast?
  | .fault _ | .refused _ => none

/-! ### One step (section 2.2, 2.10) -/

theorem test_step_rd : responseAfter ((withX State.reset [(1, 0xDEADBEEF)]).withFetchWord 32 0x04010000) =
    some { code := .ok, data := 0xDEADBEEF } := by decide +kernel

theorem test_step_illegal : responseAfter (State.reset.withFetchWord 32 0x09000000) =
    some { code := .failure .illegalCommand, data := 0 } := by decide +kernel

theorem test_step_not_initialized : responseAfter (State.reset.withFetchWord 32 0x47412001) =
    some { code := .failure .notInitialized, data := 0 } := by decide +kernel

theorem test_step_init : responseAfter (State.reset.withFetchWord 32 0x01000000) =
    some { code := .ok, data := 0 } := by decide +kernel

/-! ### System and scalar move (section 2.2, 2.8, 2.9, 2.10) -/

theorem test_nop : csrAfter .nop State.reset .status = some (.ok, 0) := by decide +kernel
theorem test_init_status : csrAfter .init State.reset .status = some (.ok, 0x00000001) := by decide +kernel
theorem test_init_fails : csrAfter .init { State.reset with fieldPoly := 0x11B } .status =
    some (.failure .invalidParameters, 0x00000110) := by decide +kernel
/-- 00_scope.md R6: a polynomial whose bit 8 is 0 fails. -/
theorem test_init_fails_degree : csrAfter .init { State.reset with fieldPoly := 0x01D } .status =
    some (.failure .invalidParameters, 0x00000110) := by decide +kernel
theorem test_csrr_field_poly : scalarAfter (.csrr 3 0x01) State.reset 3 = some (.ok, 0x0000011D) := by decide +kernel
theorem test_csrr_status :
    scalarAfter (.csrr 3 0x00) { State.reset with status := ⟨true, false, .failure .illegalCommand, 0xA2⟩ } 3 =
      some (.ok, 0x0000A281) := by decide +kernel
/-- 10_state.md R31, R32: the reserved bits of `STATUS`. -/
theorem test_csrw_status_reserved : csrAfter (.csrw 0x00 1) (withX State.reset [(1, 0x4)]) .status =
    some (.failure .invalidParameters, 0x00000110) := by decide +kernel
/-- Program P5: the read-only fields are ignored. -/
theorem test_csrw_status_clears :
    csrAfter (.csrw 0x00 1) { withX State.reset [(1, 0x0000FFF3)] with status := ⟨true, false, .ok, 0xA3⟩ } .status =
      some (.ok, 0x00000001) := by decide +kernel
theorem test_csrw_crc_cfg_reserved : csrAfter (.csrw 0x10 1) (withX crc32State [(1, 0x48)]) .crcCfg =
    some (.failure .invalidParameters, 0x320) := by decide +kernel
theorem test_csrw_crc_cfg_clears_crdy : csrAfter (.csrw 0x10 1) (withX crc32State [(1, 0x320)]) .status =
    some (.ok, 0) := by decide +kernel
theorem test_rd_keeps : scalarAfter (.rd 1) (withX State.reset [(1, 5)]) 1 = some (.ok, 5) := by decide +kernel
theorem test_li : scalarAfter (.li 1 1) (withX State.reset [(1, 0xDEADBEEF)]) 1 = some (.ok, 1) := by decide +kernel
theorem test_lih : scalarAfter (.lih 1 0xDEAD) (withX State.reset [(1, 0x0000BEEF)]) 1 = some (.ok, 0xDEADBEEF) := by
  decide +kernel
theorem test_mov : scalarAfter (.mov 4 2) (withX State.reset [(2, 0x80000000)]) 4 = some (.ok, 0x80000000) := by
  decide +kernel
theorem test_tblrd_log : scalarAfter (.tblrd 2 0 1) (withX readyState [(1, 0x1D)]) 2 = some (.ok, 8) := by
  decide +kernel
theorem test_tblrd_crctab : scalarAfter (.tblrd 2 2 1) (withX crc32State [(1, 255)]) 2 = some (.ok, 0xB1F740B4) := by
  decide +kernel

/-! ### Field arithmetic (section 2.3) -/

theorem test_gfadd : scalarAfter (.gfadd 3 1 2) (withX State.reset [(1, 0x12345653), (2, 0xFFFFFFCA)]) 3 =
    some (.ok, 0x00000099) := by decide +kernel
theorem test_gfmul : scalarAfter (.gfmul 3 1 2) (withX readyState [(1, 0xFF), (2, 0xFF)]) 3 = some (.ok, 0xE2) := by
  decide +kernel
theorem test_gfmul_alias : scalarAfter (.gfmul 3 3 3) (withX readyState [(3, 7)]) 3 = some (.ok, 0x15) := by
  decide +kernel
theorem test_gfinv_one : scalarAfter (.gfinv 3 1) (withX readyState [(1, 1)]) 3 = some (.ok, 1) := by decide +kernel
theorem test_gfinv : scalarAfter (.gfinv 3 1) (withX readyState [(1, 0x0001FF02)]) 3 = some (.ok, 0x8E) := by
  decide +kernel
theorem test_gfpow : scalarAfter (.gfpow 3 1 2) (withX readyState [(1, 0x02), (2, 0xFFFFFFFF)]) 3 = some (.ok, 1) := by
  decide +kernel
theorem test_gfdiv : scalarAfter (.gfdiv 3 1 2) (withX readyState [(1, 0x306), (2, 0x503)]) 3 = some (.ok, 2) := by
  decide +kernel
theorem test_gfdiv_zero : scalarAfter (.gfdiv 3 1 2) (withX readyState [(3, 9)]) 3 =
    some (.failure .divisionByZero, 9) := by decide +kernel

/-! ### Vector registers (section 2.4) -/

theorem test_vclr : vectorAfter (.vclr 0) (withV State.reset [(0, [1, 2])]) 0 = some (.ok, []) := by decide +kernel
theorem test_vpushi : vectorAfter (.vpushi 0 3) (withV State.reset [(0, [1, 2])]) 0 = some (.ok, [1, 2, 3]) := by
  decide +kernel
theorem test_vpushi_full : (csrAfter (.vpushi 0 9) (withV State.reset [(0, List.replicate 256 1)]) .status) =
    some (.failure .capacityExceeded, 0x00004070) := by decide +kernel
theorem test_vpush : vectorAfter (.vpush 0 1) (withV (withX State.reset [(1, 0x1FF)]) [(0, [1, 2, 3])]) 0 =
    some (.ok, [1, 2, 3, 255]) := by decide +kernel
theorem test_vget : scalarAfter (.vget 4 0 3) (withV (withX State.reset [(3, 3)]) [(0, [1, 2, 3, 255])]) 4 =
    some (.ok, 255) := by decide +kernel
theorem test_vget_at_length : scalarAfter (.vget 4 0 3) (withV (withX State.reset [(3, 4)]) [(0, [1, 2, 3, 255])]) 4 =
    some (.failure .invalidParameters, 0) := by decide +kernel
theorem test_vlen : scalarAfter (.vlen 2 0) (withV State.reset [(0, [1, 2, 3, 255])]) 2 = some (.ok, 4) := by
  decide +kernel
theorem test_vmov : vectorAfter (.vmov 1 0) (withV State.reset [(0, [1, 2, 3])]) 1 = some (.ok, [1, 2, 3]) := by
  decide +kernel
theorem test_vrev_in_place : vectorAfter (.vrev 1 1) (withV State.reset [(1, [1, 2, 3, 255])]) 1 =
    some (.ok, [255, 3, 2, 1]) := by decide +kernel
theorem test_vset : vectorAfter (.vset 1 3 5) (withV (withX State.reset [(5, 0x2AA)]) [(1, [255, 3, 2, 1])]) 1 =
    some (.ok, [170, 3, 2, 1]) := by decide +kernel
theorem test_vset_never_extends : vectorAfter (.vset 7 0 5) State.reset 7 =
    some (.failure .invalidParameters, []) := by decide +kernel

/-! ### Polynomials (section 2.5) -/

theorem test_peval : scalarAfter (.peval 2 0 1) (withV (withX readyState [(1, 0x302)]) [(0, [1, 2, 3])]) 2 =
    some (.ok, 9) := by decide +kernel
theorem test_pmul : vectorAfter (.pmul 2 0 1) (withV readyState [(0, [1, 2, 3]), (1, [1, 1])]) 2 =
    some (.ok, [1, 3, 1, 3]) := by decide +kernel
theorem test_pmul_trims : vectorAfter (.pmul 5 0 4) (withV readyState [(0, [1, 2, 3]), (4, [5, 0, 0])]) 5 =
    some (.ok, [5, 10, 15]) := by decide +kernel
theorem test_pdivmod_in_place : vectorAfter (.pdivmod 0 4 0 4) (withV readyState [(0, [1, 2, 3]), (4, [3])]) 0 =
    some (.ok, [244, 245, 1]) := by decide +kernel
theorem test_pdivmod_remainder :
    vectorAfter (.pdivmod 2 3 0 1) (withV readyState [(0, [0, 0, 30, 20, 10]), (1, [2, 3, 1])]) 3 =
      some (.ok, [40, 40]) := by decide +kernel
theorem test_ptrim_zero : vectorAfter (.ptrim 6 4) (withV State.reset [(4, [0, 0, 0])]) 6 = some (.ok, [0]) := by
  decide +kernel

/-! ### Reed-Solomon (section 2.6, 2.7) -/

theorem test_rsgen : vectorAfter (.rsgen 0 1) (withX readyState [(1, 3)]) 0 = some (.ok, [8, 14, 7, 1]) := by
  decide +kernel
theorem test_rsenc : vectorAfter (.rsenc 2 1 2) (withV (withX readyState [(2, 2)]) [(1, [10, 20, 30])]) 2 =
    some (.ok, [10, 20, 30, 40, 40]) := by decide +kernel
theorem test_rsenc_zero_word : vectorAfter (.rsenc 2 1 2) (withV (withX readyState [(2, 2)]) [(1, [0, 0, 0])]) 2 =
    some (.ok, [0, 0, 0, 0, 0]) := by decide +kernel
theorem test_rssyn : vectorAfter (.rssyn 2 1 2) (withV (withX readyState [(2, 2)]) [(1, [10, 0, 30, 0, 40])]) 2 =
    some (.ok, [60, 240]) := by decide +kernel
theorem test_rsloc : vectorAfter (.rsloc 3 2 4) (withV readyState [(2, [54, 34, 46, 195])]) 3 =
    some (.ok, [1, 66, 128]) := by decide +kernel
theorem test_rsloc_length : scalarAfter (.rsloc 3 2 4) (withV readyState [(2, [0, 0, 1])]) 4 = some (.ok, 3) := by
  decide +kernel
theorem test_rseval : vectorAfter (.rseval 4 2 3) (withV readyState [(2, [60, 240]), (3, [1, 10, 16])]) 4 =
    some (.ok, [60, 117]) := by decide +kernel
theorem test_rschien_zero_polynomial : vectorAfter (.rschien 5 3 6) (withV readyState [(3, [0])]) 5 =
    some (.ok, (List.range 255).map (BitVec.ofNat 8)) := by decide +kernel
/-- Section 2.3: the inverse of α is 0x8E; the root of `[1, 2]` is `α^(-1)`. -/
theorem test_rschien_direction : locatorInverse readyState.tables 1 = 0x8E ∧ locatorInverse readyState.tables 0 = 1 ∧
    polyEval readyState.tables [1, 2] 0x8E = 0 := by decide +kernel
theorem test_rsforn :
    vectorAfter (.rsforn 6 4 3 5) (withV readyState [(4, [60, 117]), (3, [1, 10, 16]), (5, [3, 1])]) 6 =
      some (.ok, [20, 40]) := by decide +kernel
theorem test_rsdec : vectorAfter (.rsdec 4 1 2) (withV (withX readyState [(2, 2)]) [(1, [10, 20, 30, 40, 40])]) 4 =
    some (.ok, [10, 20, 30]) := by decide +kernel
theorem test_rsdec_beyond :
    vectorAfter (.rsdec 4 1 2) (withV (withX readyState [(2, 2)]) [(1, [11, 20, 31, 40, 40]), (4, [238])]) 4 =
      some (.failure .erasureLimitExceeded, [238]) := by decide +kernel
theorem test_rsdece :
    vectorAfter (.rsdece 4 1 2 3) (withV (withX readyState [(2, 2)]) [(1, [10, 0, 30, 0, 40]), (3, [1, 3])]) 4 =
      some (.ok, [10, 20, 30]) := by decide +kernel

/-! ### CRC (section 2.8) -/

theorem test_crcinit : csrAfter .crcinit { State.reset with crcCfg := 8, crcPoly := 7, crcInit := 0xAB } .crcReg =
    some (.ok, 0xAB) := by decide +kernel
theorem test_crcinit_width : csrAfter .crcinit { State.reset with crcCfg := 12, crcPoly := 7 } .status =
    some (.failure .invalidParameters, 0x00000110) := by decide +kernel
theorem test_crcrst : csrAfter .crcrst { crc32State with crcReg := 7 } .crcReg = some (.ok, 0xFFFFFFFF) := by
  decide +kernel
theorem test_crcupd : csrAfter (.crcupd 0) (withV crc32State [(0, [97])]) .crcReg = some (.ok, 0x3D8212E8) := by
  decide +kernel
theorem test_crcfin : scalarAfter (.crcfin 1) { crc32State with crcReg := 0x9B63D02C } 1 = some (.ok, 0xCBF43926) := by
  decide +kernel
theorem test_crc : scalarAfter (.crc 2 0) (withV crc32State [(0, [49, 50, 51, 52, 53, 54, 55, 56, 57])]) 2 =
    some (.ok, 0xCBF43926) := by decide +kernel
theorem test_crc16_kermit :
    scalarAfter (.crc 2 0) (withV (crcState 0x310 0x1021 0 0) [(0, [49, 50, 51, 52, 53, 54, 55, 56, 57])]) 2 =
      some (.ok, 0x00002189) := by decide +kernel

/-! ### LFSR (section 2.9) -/

theorem test_lfsrseed : csrAfter (.lfsrseed 3) (withX (lfsrState 0x110 0x2D 0) [(3, 0xACE1)]) .lfsrState =
    some (.ok, 0xACE1) := by decide +kernel
theorem test_lfsrseed_zero_maxlen : csrAfter (.lfsrseed 3) (lfsrState 0x110 0x2D 5) .lfsrState =
    some (.failure .invalidParameters, 5) := by decide +kernel
theorem test_lfsrstep : csrAfter (.lfsrstep 6) (lfsrState 0x010 0x2D 0xACE1) .lfsrState = some (.ok, 0x5670) := by
  decide +kernel
theorem test_lfsrstep_too_wide : csrAfter (.lfsrstep 6) (lfsrState 0x008 0x1D 0x4722) .lfsrState =
    some (.failure .invalidParameters, 0x4722) := by decide +kernel
theorem test_lfsrn : scalarAfter (.lfsrn 6 32) (lfsrState 0x008 0x1D 1) 6 = some (.ok, 0x03A47101) := by decide +kernel
theorem test_lfsrn_state : csrAfter (.lfsrn 4 32) (lfsrState 0x020 0x80200003 1) .lfsrState =
    some (.ok, 0x199557FF) := by decide +kernel

/-! ### Witnesses: for each statement with hypotheses, states and operands that meet them, at the ends of ranges -/

/-- A command that leaves this code and register content answers a next state with this code. -/
theorem answers_of_vectorAfter {i : Instr} {s : State} {r : VReg} {c : Code} {l : List Byte}
    (h : vectorAfter i s r = some (c, l)) : ∃ t, exec i s = .next t ∧ t.status.last = c := by
  simp only [vectorAfter] at h
  split at h
  · next t ht => exact ⟨t, ht, by simp_all⟩
  · cases h
  · cases h

/-- A state with one input presented. -/
def presenting (s : State) (e : Input) : State := { s with inputs := [e] }

/-- The state after INIT from reset. -/
def applyInit : State := readyState.complete .ok 0

/-- A CRC configuration that CRCINIT has not seen, and the state after CRCINIT. -/
def crcConfigured : State := { State.reset with crcCfg := 8, crcPoly := 7, crcInit := 1 }

def applyCrcinit : State :=
  { crcConfigured with
    crctab := crcBuildTable 8 7, crcReg := 1, status := { crcConfigured.status with crdy := true } }.complete .ok 0

theorem reset_inv : State.reset.Inv where
  vectorsFit := by decide
  crcCfgReserved := by decide
  lfsrCfgReserved := by decide
  lastProduced := by decide
  stickyProduced := by decide
  fieldTables := by decide
  crcTable h := by cases h
  crcRegFits h := by cases h

theorem readyState_ready : readyState.FieldReady where
  left := {
    vectorsFit := by decide
    crcCfgReserved := by decide
    lfsrCfgReserved := by decide
    lastProduced := by decide
    stickyProduced := by decide
    fieldTables := fun _ => ⟨by decide +kernel, rfl⟩
    crcTable := fun h => (by cases h)
    crcRegFits := fun h => (by cases h) }
  right := rfl

theorem crc32State_ready : crc32State.CrcReady where
  left := {
    vectorsFit := by decide
    crcCfgReserved := by decide
    lfsrCfgReserved := by decide
    lastProduced := by decide
    stickyProduced := by decide
    fieldTables := fun h => (by cases h)
    crcTable := fun _ => ⟨by unfold State.crcConfigOk; decide +kernel, rfl⟩
    crcRegFits := fun _ => by decide +kernel }
  right := rfl

/-! #### Encoding -/

theorem witness_EncodeOfDecodeIsIdentity : ∃ w i, decode w = .ok i := ⟨0x47412301, .rsdece 4 1 2 3, rfl⟩

theorem witness_DecodeFollowsOpcodeMap : (∃ w i, decode w = .ok i) ∧
    ∃ w : Word, ∃ row ∈ opcodeRows, w &&& row.mask = row.pattern :=
  ⟨⟨0x62F000FF, .lfsrn 15 255, rfl⟩, 0x62F000FF, ⟨"LFSRN", 0x62000000, 0xFF0FFF00⟩, by decide, by decide⟩

/-! #### The whole machine -/

theorem witness_StepRunsTheCommandPresented :
    (∃ (s : State) (w : Word) (rest : List Input) (i : Instr), s.inputs = .command w :: rest ∧ decode w = .ok i) ∧ ∃ s : State, s.inputs = [] :=
  ⟨⟨presenting readyState (.command 0x11312000), 0x11312000, [], .gfmul 3 1 2, rfl, rfl⟩, readyState, rfl⟩

theorem witness_ResetEventGivesResetState : ∃ (s : State) (rest : List Input), s.inputs = .reset :: rest :=
  ⟨presenting crc32State .reset, [], rfl⟩

theorem witness_StepKeepsInvariant : ∃ s t : State, s.Inv ∧ step s = .next t :=
  ⟨presenting readyState (.command 0x21000009), _, inv_inputs readyState_ready.1 _, rfl⟩

theorem witness_FailureCodesByCommand : ∃ i s t f, exec i s = .next t ∧ t.status.last = .failure f :=
  ⟨.vget 4 0 3, withV (withX State.reset [(3, 4)]) [(0, [1, 2, 3, 255])], _, .invalidParameters, rfl, rfl⟩

theorem witness_FailureChangesOnlyStatus : (∃ i s t f, exec i s = .next t ∧ t.status.last = .failure f) ∧
    ∃ (s t : State) (w : Word) (rest : List Input) (f : Failure), s.inputs = .command w :: rest ∧ step s = .next t ∧
      t.status.last = .failure f :=
  ⟨witness_FailureCodesByCommand,
   presenting readyState (.command 0x09000000), _, 0x09000000, [], .illegalCommand, rfl, rfl, rfl⟩

theorem witness_UnmatchedWordIsIllegal :
    ∃ (s : State) (w : Word) (rest : List Input), s.inputs = .command w :: rest ∧
      ∀ row ∈ opcodeRows, w &&& row.mask ≠ row.pattern :=
  ⟨presenting State.reset (.command 0x47412302), 0x47412302, [], rfl, by decide +kernel⟩

theorem witness_LastRecordsEveryCompletion :
    ∃ (s t : State) (w : Word) (rest : List Input), s.inputs = .command w :: rest ∧ step s = .next t ∧
      ∃ r, t.responses = s.responses ++ [r] ∧ r.code = .failure .illegalCommand :=
  ⟨presenting State.reset (.command 0x09000000), _, 0x09000000, [], rfl, rfl, ⟨_, 0⟩, rfl, rfl⟩

theorem witness_StickyBitsAccumulate :
    (∃ (s t : State) (w : Word) (rest : List Input) (f : Failure), s.inputs = .command w :: rest ∧ step s = .next t ∧
      t.status.last = .failure f) ∧
    (∃ i s t f, exec i s = .next t ∧ t.status.last = .failure f) ∧
    (∃ i s t, exec i s = .next t ∧ t.status.last = .ok ∧ ∀ rs, i ≠ .csrw 0x00 rs) ∧
    (∃ i s t, exec i s = .next t ∧ t.status.last = .failure .invalidParameters) ∧
    (∃ (s : State) (rs : XReg), s.x[rs] &&& 0xFFFF000C = 0 ∧ s.x[rs] = 0x0000FFF3) ∧
    (∃ (s : State) (rs : XReg), s.x[rs] &&& 0xFFFF000C ≠ 0 ∧ s.x[rs] = 0x00010000) ∧
    (∃ (s : State) (rs : XReg), s.x[rs] &&& 0xFFFF000C ≠ 0 ∧ s.x[rs] = 0x00000008) ∧
    ∃ (s : State) (rest : List Input), s.inputs = .reset :: rest :=
  ⟨witness_FailureChangesOnlyStatus.2, witness_FailureCodesByCommand, ⟨.nop, State.reset, _, rfl, rfl, fun _ h => (by cases h)⟩,
   ⟨.vget 4 0 3, withV (withX State.reset [(3, 4)]) [(0, [1, 2, 3, 255])], _, rfl, rfl⟩,
   ⟨withX State.reset [(1, 0x0000FFF3)], 1, by decide, by decide⟩,
   ⟨withX State.reset [(1, 0x00010000)], 1, by decide, by decide⟩, ⟨withX State.reset [(1, 8)], 1, by decide, by decide⟩,
   witness_ResetEventGivesResetState⟩

theorem witness_StickyZeroMeansNoFailure : ∃ (n : Nat) (s t : State), Sys2Proof.core.run n s = .next t ∧
    (∀ e ∈ s.inputs, e.clearsSticky = false) ∧ t.status.sticky = 0 ∧ ∃ r, r ∈ t.responses.drop s.responses.length :=
  ⟨1, presenting State.reset (.command 0x05100001), _, rfl, by decide +kernel, rfl, ⟨.ok, 0⟩, by decide⟩

theorem witness_ResponseDataComesOnlyFromRd :
    (∃ (s t : State) (w : Word) (rest : List Input) (rs : XReg), s.inputs = .command w :: rest ∧ step s = .next t ∧
      decode w = .ok (.rd rs) ∧ t.status.last = .ok) ∧
    (∃ (s t : State) (w : Word) (rest : List Input), s.inputs = .command w :: rest ∧ step s = .next t ∧
      (∀ rs, decode w ≠ .ok (.rd rs)) ∧ t.status.last ≠ .ok) :=
  ⟨⟨presenting readyState (.command 0x040F0000), _, 0x040F0000, [], 15, rfl, rfl, rfl, rfl⟩,
   ⟨presenting readyState (.command 0x09000000), _, 0x09000000, [], rfl, rfl, fun _ h => (by cases h), by decide⟩⟩

theorem witness_WordConditionsGiveIllegalCommand :
    (∀ csr ∈ [0x03#8, 0x0F#8, 0x15#8, 0x23#8, 0xFF#8],
      csr ∉ [0x00#8, 0x01#8, 0x02#8, 0x10#8, 0x11#8, 0x12#8, 0x13#8, 0x14#8, 0x20#8, 0x21#8, 0x22#8]) ∧
    (∃ csr : Byte, csr ∈ [0x01#8, 0x02#8, 0x22#8]) ∧ (∃ sel : Byte, 2 < sel.toNat) ∧
    ∀ count ∈ [0#8, 33#8], ¬ (1 ≤ count.toNat ∧ count.toNat ≤ 32) :=
  ⟨by decide +kernel, ⟨0x22, by decide⟩, ⟨3, by decide⟩, by decide⟩

theorem witness_IllegalExactlyWhenIllFormed :
    (∃ i s t, exec i s = .next t ∧ wellFormed i = false) ∧ ∃ i s t, exec i s = .next t ∧ wellFormed i = true :=
  ⟨⟨.tblrd 2 3 1, State.reset, _, rfl, rfl⟩, ⟨.tblrd 2 2 1, State.reset, _, rfl, rfl⟩⟩

theorem witness_OnlyNamedDestinationsChange :
    (∃ i s t, exec i s = .next t ∧ ∃ r : XReg, t.x[r] ≠ s.x[r]) ∧
    ∃ i s t, exec i s = .next t ∧ ∃ r : VReg, t.v[r] ≠ s.v[r] :=
  ⟨⟨.li 15 1, State.reset, _, rfl, 15, by decide⟩, ⟨.vpushi 7 1, State.reset, _, rfl, 7, by decide⟩⟩

theorem witness_TablesAndControlRegistersChangeOnlyByTheirCommands :
    (∃ i s t, exec i s = .next t ∧ t.tables ≠ s.tables ∧ t.status.frdy ≠ s.status.frdy) ∧
    (∃ i s t, exec i s = .next t ∧ t.crctab ≠ s.crctab ∧ t.status.crdy ≠ s.status.crdy ∧ t.crcReg ≠ s.crcReg) ∧
    (∃ i s t, exec i s = .next t ∧ t.status.crdy ≠ s.status.crdy ∧ t.crcCfg ≠ s.crcCfg) ∧
    (∃ i s t, exec i s = .next t ∧ t.crcPoly ≠ s.crcPoly) ∧ (∃ i s t, exec i s = .next t ∧ t.crcInit ≠ s.crcInit) ∧
    (∃ i s t, exec i s = .next t ∧ t.crcXorout ≠ s.crcXorout) ∧
    (∃ i s t, exec i s = .next t ∧ t.lfsrCfg ≠ s.lfsrCfg) ∧ (∃ i s t, exec i s = .next t ∧ t.lfsrTaps ≠ s.lfsrTaps) ∧
    ∃ i s t, exec i s = .next t ∧ t.lfsrState ≠ s.lfsrState := by
  refine ⟨⟨.init, State.reset, applyInit, execInit_ok (by decide +kernel), fun h => ?_, by decide⟩,
    ⟨.crcinit, crcConfigured, applyCrcinit, execCrcinit_ok (by unfold State.crcConfigOk; decide +kernel), fun h => ?_, by decide, by decide⟩,
    ⟨.csrw 0x10 1, withX crc32State [(1, 8)], _, rfl, by decide, by decide⟩,
    ⟨.csrw 0x11 1, withX State.reset [(1, 8)], _, rfl, by decide⟩,
    ⟨.csrw 0x12 1, withX State.reset [(1, 8)], _, rfl, by decide⟩,
    ⟨.csrw 0x13 1, withX State.reset [(1, 8)], _, rfl, by decide⟩,
    ⟨.csrw 0x20 1, withX State.reset [(1, 8)], _, rfl, by decide⟩,
    ⟨.csrw 0x21 1, withX State.reset [(1, 8)], _, rfl, by decide⟩,
    ⟨.lfsrstep 1, lfsrState 0x010 0x2D 0xACE1, _, rfl, by decide +kernel⟩⟩
  · exact absurd (congrArg (fun t => t.alog[0]) h) (by decide +kernel)
  · exact absurd (congrArg (fun t => t[1]) h) (by decide +kernel)

theorem witness_UnreadyTablesAreUnobservable :
    ∃ s s' t : State, SameButUnreadyTables s s' ∧ s ≠ s' ∧ step s = .next t := by
  refine ⟨presenting State.reset (.command 0x08210000),
    { presenting State.reset (.command 0x08210000) with
      tables := readyState.tables, crctab := Vector.replicate 256 5 }, _,
    ⟨rfl, fun h => (by cases h), fun h => (by cases h)⟩, fun h => ?_, rfl⟩
  exact absurd (congrArg (fun s => s.crctab[0]) h) (by decide)

theorem witness_CommandsNeedTheirTables :
    (∃ (i : Instr) (s : State), wellFormed i = true ∧ needsFieldTables i = true ∧ s.status.frdy = false) ∧
    ∃ (i : Instr) (s : State), wellFormed i = true ∧ needsCrcTable i = true ∧ s.status.crdy = false :=
  ⟨⟨.tblrd 1 1 2, State.reset, rfl, rfl, rfl⟩, ⟨.csrw 0x14 2, readyState, rfl, rfl, rfl⟩⟩

theorem witness_ConfigurationWriteClearsCrdy :
    (∃ (s t : State) (csr : Byte) (rs : XReg), csr ∈ [0x10#8, 0x11#8, 0x12#8, 0x13#8] ∧
      exec (.csrw csr rs) s = .next t ∧ t.status.last = .ok) ∧
    ∃ s t : State, s.Inv ∧ step s = .next t ∧ t.status.crdy = true :=
  ⟨⟨withX crc32State [(1, 0x33F)], _, 0x10, 1, by decide, rfl, rfl⟩,
   ⟨presenting crc32State (.command 0x00000000), _, inv_inputs crc32State_ready.1 _, rfl, rfl⟩⟩

/-! #### System and scalar move -/

theorem witness_CsrwWritesOrRefuses :
    (∃ (s : State) (rs : XReg), s.x[rs] &&& 0xFFFFFCC0 = 0 ∧ s.x[rs] = 0x33F) ∧
    (∃ (s : State) (rs : XReg), s.x[rs] &&& 0xFFFFFCC0 ≠ 0) ∧
    (∃ (s : State) (rs : XReg), s.status.crdy = true ∧ s.x[rs].toNat < 2 ^ s.crcWidth ∧ s.x[rs] = 0xFF) ∧
    (∃ (s : State) (rs : XReg), s.status.crdy = true ∧ ¬ s.x[rs].toNat < 2 ^ s.crcWidth ∧ s.x[rs] = 0x100) ∧
    (∃ (s : State) (rs : XReg), s.x[rs] &&& 0xFFFFFEC0 = 0 ∧ s.x[rs] = 0x13F) ∧
    ∃ (s : State) (rs : XReg), s.x[rs] &&& 0xFFFFFEC0 ≠ 0 :=
  ⟨⟨withX State.reset [(1, 0x33F)], 1, by decide, by decide⟩, ⟨withX State.reset [(1, 0x400)], 1, by decide⟩,
   ⟨withX (crcState 8 7 0 0) [(1, 0xFF)], 1, by decide, by decide +kernel, by decide⟩,
   ⟨withX (crcState 8 7 0 0) [(1, 0x100)], 1, by decide, by decide +kernel, by decide⟩,
   ⟨withX State.reset [(1, 0x13F)], 1, by decide, by decide⟩, ⟨withX State.reset [(1, 0x200)], 1, by decide⟩⟩

theorem witness_InitBuildsFieldTables : (∃ s : State, s.GeneratorOk) ∧ (∃ s : State, ¬ s.GeneratorOk) ∧
    ∃ s : State, ¬ s.GeneratorOk ∧ s.fieldPoly = 0x01D :=
  ⟨⟨State.reset, generatorOk_of_gfTablesOk (by decide +kernel)⟩,
   ⟨{ State.reset with fieldGen := 1 }, fun h => absurd (h.2.1 0 (by omega) 1 (by omega) (by decide +kernel)) (by omega)⟩,
   ⟨{ State.reset with fieldPoly := 0x01D }, fun h => absurd h.1 (by decide), rfl⟩⟩

theorem witness_StartupAssertionOnNamedPairs :
    (∃ s : State, s.fieldPoly = 0x11D ∧ s.fieldGen = 0x02) ∧ (∃ s : State, s.fieldPoly = 0x11B ∧ s.fieldGen = 0x03) ∧
    (∃ s : State, s.fieldPoly = 0x11B ∧ s.fieldGen = 0x02) ∧ ∃ s : State, s.fieldPoly = 0x11D ∧ s.fieldGen = 0x01 :=
  ⟨⟨State.reset, rfl, rfl⟩, ⟨{ State.reset with fieldPoly := 0x11B, fieldGen := 3 }, rfl, rfl⟩,
   ⟨{ State.reset with fieldPoly := 0x11B }, rfl, rfl⟩, ⟨{ State.reset with fieldGen := 1 }, rfl, rfl⟩⟩

theorem witness_TblrdReadsTables :
    (∃ s : State, s.FieldReady ∧ s.x[1].toNat = 1 ∧ s.x[2].toNat = 255 ∧ s.x[3].toNat = 256 ∧ s.x[4] = 0) ∧
    ∃ s : State, s.CrcReady ∧ s.x[1].toNat = 255 ∧ s.x[2].toNat = 256 :=
  ⟨⟨((readyState.setX 1 1).setX 2 255).setX 3 256,
    fieldReady_setX (fieldReady_setX (fieldReady_setX readyState_ready 1 1) 2 255) 3 256,
    by decide, by decide, by decide, by decide⟩,
   ⟨(crc32State.setX 1 255).setX 2 256, crcReady_setX (crcReady_setX crc32State_ready 1 255) 2 256, by decide, by decide⟩⟩

/-! #### Field arithmetic -/

theorem witness_GfmulMatchesDefinition : ∃ s : State, s.FieldReady ∧ s.x[1] = 0xFFFFFFFF :=
  ⟨readyState.setX 1 0xFFFFFFFF, fieldReady_setX readyState_ready 1 _, by decide⟩

theorem witness_GfpowIsRepeatedProduct : ∃ s : State, s.FieldReady ∧ s.x[1].setWidth 8 = 0#8 ∧ s.x[2] = 0xFFFFFFFF :=
  ⟨readyState.setX 2 0xFFFFFFFF, fieldReady_setX readyState_ready 2 _, by decide, by decide⟩

theorem witness_FieldLawsHold : (∃ s : State, s.FieldReady) ∧ ∃ a : Byte, a ≠ 0 := ⟨⟨_, readyState_ready⟩, 255, by decide⟩

theorem witness_GfinvAndGfdivInvert : ∃ s : State, s.FieldReady ∧ s.x[1].setWidth 8 ≠ 0#8 ∧ s.x[2].setWidth 8 = 0#8 ∧
    s.x[2] ≠ 0 ∧ ∃ a : Byte, a ≠ 0 :=
  ⟨(readyState.setX 1 0x1FF).setX 2 0x100, fieldReady_setX (fieldReady_setX readyState_ready 1 0x1FF) 2 0x100,
   by decide, by decide, by decide, 255, by decide⟩

/-- 40_system_and_move.md R102: the pair (0x11B, 0x03) is ready too: the statements about a ready state are about more than one
pair of parameters. -/
theorem witness_other_parameters : ∃ s : State, s.FieldReady ∧ s.fieldPoly = 0x11B ∧ s.fieldGen = 0x03 :=
  ⟨{ readyState with fieldPoly := 0x11B, fieldGen := 3, tables := gfBuildTables 0x11B 3 },
   ⟨{ vectorsFit := by decide, crcCfgReserved := by decide, lfsrCfgReserved := by decide, lastProduced := by decide,
      stickyProduced := by decide, fieldTables := fun _ => ⟨by decide +kernel, rfl⟩, crcTable := fun h => (by cases h),
      crcRegFits := fun h => (by cases h) }, rfl⟩, rfl, rfl⟩

/-! #### Vector registers -/

theorem witness_VectorWritesComplete :
    (∃ (s : State) (vd : VReg), s.v[vd].length < 256 ∧ s.v[vd].length = 255) ∧
    (∃ (s : State) (vd : VReg), 256 ≤ s.v[vd].length) ∧
    (∃ (s : State) (vd : VReg) (rs : XReg), s.x[rs].toNat < s.v[vd].length ∧ s.v[vd].length = s.x[rs].toNat + 1) ∧
    ∃ (s : State) (vd : VReg) (rs : XReg), s.v[vd].length ≤ s.x[rs].toNat ∧ s.v[vd].length = s.x[rs].toNat :=
  ⟨⟨State.reset.setV 3 (List.replicate 255 7), 3, by decide +kernel, by decide +kernel⟩,
   ⟨State.reset.setV 3 (List.replicate 256 7), 3, by decide +kernel⟩,
   ⟨(State.reset.setX 1 3).setV 3 [1, 2, 3, 4], 3, 1, by decide, by decide⟩,
   ⟨(State.reset.setX 1 4).setV 3 [1, 2, 3, 4], 3, 1, by decide, by decide⟩⟩

theorem witness_VectorReadsComplete :
    (∃ (s : State) (vs : VReg) (rt : XReg), s.x[rt].toNat < s.v[vs].length ∧ s.v[vs].length = s.x[rt].toNat + 1) ∧
    (∃ (s : State) (vs : VReg) (rt : XReg), s.v[vs].length ≤ s.x[rt].toNat ∧ s.v[vs].length = s.x[rt].toNat) ∧
    ∃ (s : State) (vs : VReg), s.v[vs].length ≤ 256 ∧ s.v[vs].length = 256 :=
  ⟨⟨(State.reset.setX 1 3).setV 3 [1, 2, 3, 4], 3, 1, by decide, by decide⟩,
   ⟨(State.reset.setX 1 4).setV 3 [1, 2, 3, 4], 3, 1, by decide, by decide⟩,
   ⟨State.reset.setV 3 (List.replicate 256 7), 3, by decide +kernel, by decide +kernel⟩⟩

/-! #### Polynomials -/

theorem witness_PevalIsPolynomialValue : ∃ s : State, s.FieldReady ∧ s.v[0] ≠ [] ∧ s.v[1] = [] :=
  ⟨readyState.setV 0 [1, 2, 3], fieldReady_setV readyState_ready 0 (by decide), by decide, by decide⟩

/-- 200 ones and n ones. -/
def onesState (n : Nat) : State := (readyState.setV 0 (List.replicate 200 1)).setV 1 (List.replicate n 1)

theorem onesState_0 (n : Nat) : (onesState n).v[(0 : VReg)] = List.replicate 200 1 := by
  rw [onesState, setV_read_other _ _ _ _ (by decide), setV_read_same]

theorem onesState_1 (n : Nat) : (onesState n).v[(1 : VReg)] = List.replicate n 1 := by
  rw [onesState, setV_read_same]

theorem witness_PmulIsPolynomialProduct :
    (∃ s : State, s.FieldReady ∧ s.v[0] ≠ [] ∧ s.v[1] ≠ [] ∧ ZeroPoly s.v[1]) ∧
    (∃ s : State, s.FieldReady ∧ s.v[(0 : VReg)] ≠ [] ∧ s.v[(1 : VReg)] ≠ [] ∧
      (polyTrim s.v[(0 : VReg)]).length + (polyTrim s.v[(1 : VReg)]).length = 257) ∧
    (∃ s : State, s.FieldReady ∧ s.v[(0 : VReg)] ≠ [] ∧ s.v[(1 : VReg)] ≠ [] ∧
      ¬ ZeroPoly s.v[(0 : VReg)] ∧ ¬ ZeroPoly s.v[(1 : VReg)] ∧
      257 < (polyTrim s.v[(0 : VReg)]).length + (polyTrim s.v[(1 : VReg)]).length) ∧
    ∃ s : State, s.FieldReady ∧ s.v[0] ≠ [] ∧ s.v[1] = [] :=
  ⟨⟨(readyState.setV 0 [1, 2, 3]).setV 1 [0, 0],
    fieldReady_setV (fieldReady_setV readyState_ready 0 (by decide)) 1 (by decide),
    by decide, by decide, by unfold ZeroPoly; decide⟩,
   ⟨onesState 57,
    fieldReady_setV (fieldReady_setV readyState_ready 0 (by decide +kernel)) 1 (by decide +kernel),
    by decide +kernel, by decide +kernel, by
      rw [onesState_0, onesState_1, polyTrim_replicate (by decide), polyTrim_replicate (by decide),
        List.length_replicate, List.length_replicate]⟩,
   ⟨onesState 58,
    fieldReady_setV (fieldReady_setV readyState_ready 0 (by decide +kernel)) 1 (by decide +kernel),
    by decide +kernel, by decide +kernel, fun h => absurd (h 1 (by decide +kernel)) (by decide),
    fun h => absurd (h 1 (by decide +kernel)) (by decide), by
      rw [onesState_0, onesState_1, polyTrim_replicate (by decide), polyTrim_replicate (by decide),
        List.length_replicate, List.length_replicate]
      decide⟩,
   witness_PevalIsPolynomialValue⟩

theorem witness_PdivmodDividesWithRemainder :
    ∃ s : State, s.FieldReady ∧ (1 : VReg) ≠ 2 ∧ s.v[0] ≠ [] ∧ s.v[1] ≠ [] ∧ s.v[2] ≠ [] ∧
      ¬ ZeroPoly s.v[1] ∧ ZeroPoly s.v[2] ∧ s.v[3] = [] :=
  ⟨((readyState.setV 0 [7, 0, 1, 0, 0]).setV 1 [2, 3, 1, 0]).setV 2 [0, 0],
   fieldReady_setV (fieldReady_setV (fieldReady_setV readyState_ready 0 (by decide)) 1 (by decide)) 2 (by decide),
   by decide, by decide, by decide, by decide, by unfold ZeroPoly; decide, by unfold ZeroPoly; decide, by decide⟩

theorem witness_PtrimGivesCanonicalForm : ∃ s : State, s.v[0] = [0] ∧ s.v[1] = [] :=
  ⟨State.reset.setV 0 [0], by decide, by decide⟩

/-! #### Reed-Solomon -/

theorem witness_RsgenHasConsecutiveRoots : ∃ s : State, s.FieldReady ∧ s.x[1].toNat ≤ 254 ∧ s.x[1] = 254 :=
  ⟨readyState.setX 1 254, fieldReady_setX readyState_ready 1 254, by decide, by decide⟩

theorem witness_RsencGivesCodeword : ∃ s : State, s.FieldReady ∧ 0 < s.v[1].length ∧
    s.v[1].length + s.x[2].toNat = 255 :=
  ⟨(readyState.setX 2 32).setV 1 (List.replicate 223 1),
   fieldReady_setV (fieldReady_setX readyState_ready 2 32) 1 (by decide +kernel), by decide +kernel, by decide +kernel⟩

theorem witness_RssynEvaluatesAtRoots : ∃ s : State, s.FieldReady ∧ s.x[2].toNat + 1 = s.v[1].length ∧
    s.v[1].length = 255 :=
  ⟨(readyState.setX 2 254).setV 1 (List.replicate 255 1),
   fieldReady_setV (fieldReady_setX readyState_ready 2 254) 1 (by decide +kernel), by decide +kernel, by decide +kernel⟩

theorem witness_RsevalIsTruncatedProduct : ∃ s : State, s.FieldReady ∧ s.v[0] ≠ [] ∧ s.v[1] = [] :=
  witness_PevalIsPolynomialValue

theorem witness_RschienFindsAllRoots : ∃ s : State, s.FieldReady ∧ s.v[0] ≠ [] ∧ s.v[1] = [] :=
  witness_PevalIsPolynomialValue

/-- A state with 255 zeros and one more element in `v1`. -/
def zerosThen (d : Byte) : State := readyState.setV 1 (List.replicate 255 0 ++ [d])

theorem zerosThen_ready (d : Byte) : (zerosThen d).FieldReady :=
  fieldReady_setV readyState_ready 1 (by rw [List.length_append, List.length_replicate]; exact le_refl 256)

theorem witness_RslocGivesRecurrence :
    (∃ s : State, s.FieldReady ∧ s.v[(1 : VReg)] = List.replicate 255 0 ++ [0] ∧
      ∀ d : Byte, d ≠ 0 → s.v[(1 : VReg)] ≠ List.replicate 255 0 ++ [d]) ∧
    (∃ s : State, s.FieldReady ∧ s.v[(1 : VReg)] = [] ∧
      ∀ d : Byte, d ≠ 0 → s.v[(1 : VReg)] ≠ List.replicate 255 0 ++ [d]) ∧
    ∃ s : State, s.FieldReady ∧ ∃ d : Byte, d ≠ 0 ∧ s.v[(1 : VReg)] = List.replicate 255 0 ++ [d] := by
  refine ⟨⟨zerosThen 0, zerosThen_ready 0, setV_read_same _ _ _, fun d hd h => hd ?_⟩,
    ⟨readyState, readyState_ready, rfl, fun d _ h => ?_⟩, ⟨zerosThen 1, zerosThen_ready 1, 1, by decide, setV_read_same _ _ _⟩⟩
  · rw [zerosThen, setV_read_same, List.append_cancel_left_eq] at h
    exact (List.cons.inj h).1.symm
  · exact List.append_ne_nil_of_right_ne_nil _ (by simp) h.symm

theorem witness_RsfornGivesMagnitudes :
    (∃ s : State, s.FieldReady ∧ s.v[0] ≠ [] ∧ s.v[1] ≠ [] ∧ s.v[2] = [254, 0] ∧
      ∀ d ∈ s.v[2], d.toNat ≤ 254 ∧ polyValue s.fieldPoly (formalDeriv s.v[1]) (s.alpha (255 - d.toNat)) ≠ 0) ∧
    (∃ s : State, s.FieldReady ∧ s.v[0] ≠ [] ∧ s.v[1] = []) ∧
    (∃ s : State, s.FieldReady ∧ s.v[0] ≠ [] ∧ s.v[1] ≠ [] ∧ ∃ d ∈ s.v[2], 254 < d.toNat) ∧
    ∃ s : State, s.FieldReady ∧ s.v[0] ≠ [] ∧ s.v[1] ≠ [] ∧ (∀ d ∈ s.v[2], d.toNat ≤ 254) ∧
      ∃ d ∈ s.v[2], polyValue s.fieldPoly (formalDeriv s.v[1]) (s.alpha (255 - d.toNat)) = 0 :=
  ⟨⟨((readyState.setV 0 [60, 117]).setV 1 [1, 10, 16]).setV 2 [254, 0],
    fieldReady_setV (fieldReady_setV (fieldReady_setV readyState_ready 0 (by decide)) 1 (by decide)) 2 (by decide),
    by decide, by decide, by decide, by decide +kernel⟩,
   witness_PevalIsPolynomialValue,
   ⟨((readyState.setV 0 [60, 117]).setV 1 [1, 10, 16]).setV 2 [255],
    fieldReady_setV (fieldReady_setV (fieldReady_setV readyState_ready 0 (by decide)) 1 (by decide)) 2 (by decide),
    by decide, by decide, by decide⟩,
   ⟨((readyState.setV 0 [60, 117]).setV 1 [1, 0, 1]).setV 2 [0],
    fieldReady_setV (fieldReady_setV (fieldReady_setV readyState_ready 0 (by decide)) 1 (by decide)) 2 (by decide),
    by decide, by decide, by decide, by decide +kernel⟩⟩

theorem witness_DecodeOfCodewordReturnsData :
    ∃ s : State, s.FieldReady ∧ s.x[2].toNat < s.v[1].length ∧ s.v[1].length ≤ 255 ∧ s.x[2].toNat = 2 ∧
      s.v[1] = [10, 20, 30, 40, 40] ∧ s.IsCodeword s.x[2].toNat s.v[1] ∧ s.v[3] = [] :=
  ⟨(readyState.setX 2 2).setV 1 [10, 20, 30, 40, 40], fieldReady_setV (fieldReady_setX readyState_ready 2 2) 1 (by decide),
   by decide, by decide, by decide, by decide, by unfold State.IsCodeword; decide +kernel, by decide⟩

theorem witness_DecodeIsSound :
    (∃ s t : State, s.FieldReady ∧ exec (.rsdec 4 1 2) s = .next t ∧ t.status.last = .ok) ∧
    ∃ s t : State, s.FieldReady ∧ exec (.rsdece 4 1 2 3) s = .next t ∧ t.status.last = .ok := by
  obtain ⟨t1, h1⟩ := answers_of_vectorAfter test_rsdec
  obtain ⟨t2, h2⟩ := answers_of_vectorAfter test_rsdece
  exact ⟨⟨_, t1, fieldReady_setV (fieldReady_setX readyState_ready 2 2) 1 (by decide), h1⟩,
    ⟨_, t2, fieldReady_setV (fieldReady_setV (fieldReady_setX readyState_ready 2 2) 1 (by decide)) 3 (by decide), h2⟩⟩

theorem witness_DecodeCorrectsWithinCapacity :
    ∃ (s : State) (c : List Byte), s.FieldReady ∧ s.x[2].toNat < c.length ∧ c.length ≤ 255 ∧
      s.IsCodeword s.x[2].toNat c ∧
      (s.v[1].length = c.length ∧ 2 * errorCount s.v[1] c [] = s.x[2].toNat) ∧
      (s.v[2].length = c.length ∧ LegalErasures c.length s.v[3] ∧
        s.v[3].length + 2 * errorCount s.v[2] c s.v[3] = s.x[2].toNat) :=
  ⟨(((readyState.setX 2 2).setV 1 [10, 21, 30, 40, 40]).setV 2 [10, 0, 30, 0, 40]).setV 3 [1, 3], [10, 20, 30, 40, 40],
   fieldReady_setV (fieldReady_setV (fieldReady_setV (fieldReady_setX readyState_ready 2 2) 1 (by decide)) 2
     (by decide)) 3 (by decide),
   by decide, by decide, by unfold State.IsCodeword; decide +kernel, ⟨by decide, by decide +kernel⟩,
   ⟨by decide, by unfold LegalErasures; decide, by decide +kernel⟩⟩

theorem witness_ReedSolomonParameterChecks :
    ∃ s : State, s.status.frdy = true ∧ s.x[1].toNat = 255 ∧
      (¬ (0 < s.v[0].length ∧ s.v[0].length + s.x[2].toNat ≤ 255)) ∧
      (¬ (s.x[3].toNat < s.v[1].length ∧ s.v[1].length ≤ 255) ∧ s.x[3].toNat = s.v[1].length) ∧
      s.x[2].toNat < s.v[1].length ∧ s.v[1].length ≤ 255 ∧
      ¬ LegalErasures s.v[1].length s.v[2] ∧ ¬ LegalErasures s.v[1].length s.v[3] ∧
      LegalErasures s.v[1].length s.v[4] ∧ s.v[4].length = s.x[2].toNat + 1 :=
  ⟨withV (withX readyState [(1, 255), (2, 2), (3, 5)])
     [(1, [10, 0, 30, 0, 40]), (2, [0, 0]), (3, [1, 5]), (4, [0, 1, 4])],
   by decide, by decide, by decide, by decide, by decide, by decide, by unfold LegalErasures; decide,
   by unfold LegalErasures; decide, by unfold LegalErasures; decide, by decide⟩

/-! #### CRC -/

theorem witness_CrcinitBuildsTable : (∃ s : State, s.crcConfigOk) ∧ ∃ s : State, ¬ s.crcConfigOk :=
  ⟨⟨{ State.reset with crcCfg := 0x308, crcPoly := 0xFF, crcInit := 0xFF, crcXorout := 0xFF },
    by unfold State.crcConfigOk; decide +kernel⟩,
   ⟨{ State.reset with crcCfg := 0x308, crcPoly := 0x100 }, by unfold State.crcConfigOk; decide +kernel⟩⟩

theorem witness_CrcTableFoldEqualsBitSerialDivision : ∃ (W : Nat) (poly reg : Word),
    W ∈ [8, 16, 32] ∧ poly.toNat < 2 ^ W ∧ reg.toNat < 2 ^ W ∧ W = 8 ∧ poly = 0xFF ∧ reg = 0xFF :=
  ⟨8, 0xFF, 0xFF, by decide, by decide, by decide, rfl, rfl, rfl⟩

theorem witness_CrcCommandsComplete : ∃ s : State, s.CrcReady := ⟨crc32State, crc32State_ready⟩

theorem witness_CrcOneShotAndPartsAgree : ∃ s : State, s.status.crdy = true ∧ s.v[2] = s.v[0] ++ s.v[1] ∧ s.v[0] ≠ [] :=
  ⟨withV crc32State [(0, [49, 50]), (1, [51]), (2, [49, 50, 51])], by decide, by decide, by decide⟩

/-! #### LFSR -/

theorem witness_LfsrseedStoresLegalSeed :
    (∃ s : State, s.LfsrShape ∧ s.x[1].toNat < 2 ^ s.lfsrWidth ∧ ¬ (s.x[1] = 0 ∧ s.lfsrCfg.getLsbD 8 = true) ∧
      s.x[1] = 0xFFFF) ∧
    (∃ s : State, s.LfsrShape ∧ s.x[1].toNat < 2 ^ s.lfsrWidth ∧ ¬ (s.x[1] = 0 ∧ s.lfsrCfg.getLsbD 8 = true) ∧
      s.x[1] = 0) ∧
    ∃ s : State, ¬ (s.LfsrShape ∧ s.x[1].toNat < 2 ^ s.lfsrWidth ∧ ¬ (s.x[1] = 0 ∧ s.lfsrCfg.getLsbD 8 = true)) :=
  ⟨⟨withX (lfsrState 0x110 0x2D 0) [(1, 0xFFFF)], by unfold State.LfsrShape; decide +kernel, by decide +kernel,
    by decide +kernel, by decide⟩,
   ⟨lfsrState 0x010 0x2D 5, by unfold State.LfsrShape; decide +kernel, by decide +kernel, by decide +kernel, by decide⟩,
   ⟨lfsrState 0x110 0x2D 5, by unfold State.LfsrShape; decide +kernel⟩⟩

theorem witness_LfsrstepShiftsRight :
    (∃ s : State, s.LfsrReady ∧ s.lfsrWidth = 32) ∧ (∃ s : State, s.LfsrReady ∧ s.lfsrWidth = 1) ∧
    ∃ s : State, ¬ s.LfsrReady ∧ s.LfsrShape :=
  ⟨⟨lfsrState 0x020 0x80200003 1, by unfold State.LfsrReady State.LfsrShape; decide +kernel, by decide +kernel⟩,
   ⟨lfsrState 0x001 1 1, by unfold State.LfsrReady State.LfsrShape; decide +kernel, by decide +kernel⟩,
   ⟨lfsrState 0x008 0x1D 0x100, by unfold State.LfsrReady State.LfsrShape; decide +kernel,
    by unfold State.LfsrShape; decide +kernel⟩⟩

theorem witness_LfsrnPacksSteps :
    (∃ (s : State) (count : Byte), 1 ≤ count.toNat ∧ count.toNat ≤ 32 ∧ s.LfsrReady ∧ count.toNat = s.lfsrWidth ∧
      count = 32) ∧
    (∃ (s : State) (count : Byte), 1 ≤ count.toNat ∧ count.toNat ≤ 32 ∧ s.LfsrReady ∧ count = 1) ∧
    ∃ (s : State) (count : Byte), 1 ≤ count.toNat ∧ count.toNat ≤ 32 ∧ ¬ s.LfsrReady :=
  ⟨⟨lfsrState 0x020 0x80200003 1, 32, by decide, by decide, by unfold State.LfsrReady State.LfsrShape; decide +kernel,
    by decide +kernel, rfl⟩,
   ⟨lfsrState 0x020 0x80200003 1, 1, by decide, by decide, by unfold State.LfsrReady State.LfsrShape; decide +kernel,
    rfl⟩,
   ⟨State.reset, 32, by decide, by decide, by unfold State.LfsrReady State.LfsrShape; decide +kernel⟩⟩

theorem witness_LfsrZeroIsFixedPoint :
    (∃ (w : Nat) (taps st : Word), 1 ≤ w ∧ w ≤ 32 ∧ taps.getLsbD 0 = true ∧ st.toNat < 2 ^ w ∧ st ≠ 0 ∧ w = 1) ∧
    ∃ (w : Nat) (taps st : Word), 1 ≤ w ∧ w ≤ 32 ∧ taps.getLsbD 0 = true ∧ st.toNat < 2 ^ w ∧ st ≠ 0 ∧ w = 32 :=
  ⟨⟨1, 1, 1, by decide, by decide, by decide, by decide, by decide, rfl⟩,
   ⟨32, 0x80200003, 0xFFFFFFFF, by decide, by decide, by decide, by decide, by decide, rfl⟩⟩

end Sys2Proof.Tests
end

namespace Sys2Proof.Machine

/-! ### Which failures a body can raise -/

/-- Every failure the body raises is one of `fs`. -/
def Raises {α : Type} (fs : List Failure) (m : Except Failure α) : Prop := ∀ f, m = .error f → f ∈ fs

@[simp] theorem raises_ok {α : Type} (fs : List Failure) (a : α) : Raises fs (.ok a : Except Failure α) := nofun

@[simp] theorem raises_error {α : Type} (fs : List Failure) (f : Failure) :
    Raises fs (.error f : Except Failure α) ↔ f ∈ fs := by
  simp [Raises]

@[simp] theorem raises_done (fs : List Failure) (s : State) : Raises fs (done s) := raises_ok fs _

@[simp] theorem raises_require_bind {α : Type} (fs : List Failure) (c : Prop) [Decidable c] (f : Failure)
    (k : Unit → Except Failure α) : Raises fs (require c f >>= k) ↔ if c then Raises fs (k ()) else f ∈ fs := by
  rw [require_bind]; split <;> simp

/-- A body raises what its parts raise. -/
theorem Raises.bind {α β : Type} {fs : List Failure} {m : Except Failure α} {k : α → Except Failure β}
    (hm : Raises fs m) (hk : ∀ a, Raises fs (k a)) : Raises fs (m >>= k) := by
  intro f h
  obtain h | ⟨a, -, h⟩ := bind_error_inv h
  · exact hm f h
  · exact hk a f h

theorem Raises.mono {α : Type} {fs gs : List Failure} {m : Except Failure α} (hm : Raises fs m) (h : fs ⊆ gs) :
    Raises gs m := fun f hf => h (hm f hf)

theorem raises_namedCsr (csr : Byte) : Raises [.illegalCommand] (namedCsr csr) := by
  unfold namedCsr; split <;> simp

theorem raises_writeCsr (s : State) (w : Word) (c : Csr) :
    Raises [.illegalCommand, .notInitialized, .invalidParameters] (writeCsr s w c) := by
  cases c <;> simp [writeCsr]

theorem raises_readTable (s : State) (i : Nat) (c : Table) :
    Raises [.illegalCommand, .notInitialized, .invalidParameters] (readTable s i c) := by
  cases c <;> simp [readTable]

theorem raises_gfInv (t : FieldTables) (a : Byte) : Raises [.divisionByZero] (gfInv t a) := by
  unfold gfInv; split <;> simp

theorem raises_gfDiv (t : FieldTables) (a b : Byte) : Raises [.divisionByZero] (gfDiv t a b) :=
  (raises_gfInv t b).bind fun _ => by simp

theorem raises_polyDivmod (t : FieldTables) (p d : List Byte) : Raises [.invalidParameters] (polyDivmod t p d) := by
  simp [polyDivmod]

theorem raises_rsForney (t : FieldTables) (om psi : List Byte) (locs : List Nat) :
    Raises [.divisionByZero] (rsForney t om psi locs) := by
  induction locs with
  | nil => simp [rsForney]
  | cons d ds ih => exact ((raises_gfDiv t _ _).bind fun _ => by simp).bind fun _ => ih.bind fun _ => by simp

theorem raises_asUncorrectable {α : Type} (m : Except Failure α) : Raises [.uncorrectableError] (asUncorrectable m) := by
  cases m <;> simp [asUncorrectable]

theorem raises_rsDecode (t : FieldTables) (gen : Byte) (recv : List Byte) (r : Nat) (erased : List Byte) :
    Raises [.invalidParameters, .erasureLimitExceeded, .uncorrectableError] (rsDecode t gen recv r erased) := by
  simp only [rsDecode, raises_require_bind]
  split_ifs
  · exact ((raises_asUncorrectable _).mono (by simp)).bind fun _ => by simp
  all_goals simp

/-- A completed command shows a failure only when its body raised it. -/
theorem failure_mem_of_raises {s t : State} {body : Except Failure Done} {fs : List Failure} {f : Failure}
    (hb : Raises fs body) (h : runCommand s body = .next t) (hf : t.status.last = .failure f) : f ∈ fs := by
  obtain ⟨g, hg, rfl⟩ | ⟨d, -, rfl⟩ := runCommand_cases h
  · obtain rfl : g = f := by simpa using hf
    exact hb g hg
  · simp at hf

/-- A command fails only with the codes that 60_exceptions.md R263 lists for it. -/
theorem exec_failure_mem_raisable {i : Instr} {s t : State} {f : Failure} (h : exec i s = .next t)
    (hf : t.status.last = .failure f) : f ∈ raisable i := by
  cases i
  case nop | rd | li | lih | mov | gfadd | vclr | vlen | vmov | vrev =>
    exact failure_mem_of_raises (s := s) (raises_ok _ _) h hf
  all_goals refine failure_mem_of_raises ?_ h hf
  case csrr => exact (raises_namedCsr _).bind fun _ => raises_done _ _
  case csrw =>
    exact ((raises_namedCsr _).mono (by simp [raisable])).bind fun c => by
      simpa [raisable] using fun _ => raises_writeCsr _ _ c
  case tblrd =>
    split
    · simp [raisable]
    · exact ((raises_readTable _ _ _).mono (by simp [raisable])).bind fun _ => raises_done _ _
  case gfinv => simpa [raisable] using fun _ => ((raises_gfInv _ _).mono (by simp)).bind fun _ => raises_done _ _
  case gfdiv => simpa [raisable] using fun _ => ((raises_gfDiv _ _ _).mono (by simp)).bind fun _ => raises_done _ _
  case pdivmod =>
    simpa [raisable] using fun _ _ _ _ => ((raises_polyDivmod _ _ _).mono (by simp)).bind fun _ => raises_done _ _
  case rsforn =>
    simpa [raisable] using fun _ _ _ _ => ((raises_rsForney _ _ _ _).mono (by simp)).bind fun _ => raises_done _ _
  case rsdec | rsdece =>
    simpa [raisable] using fun _ => ((raises_rsDecode _ _ _ _ _).mono (by simp)).bind fun _ => raises_done _ _
  all_goals simp [raisable]

theorem insufficientShares_not_mem_raisable (i : Instr) : Failure.insufficientShares ∉ raisable i := by
  cases i <;> simp [raisable]

/-! ### What a command and a step leave -/

theorem failedWith_complete (s : State) (f : Failure) : FailedWith s (s.complete (.failure f) 0) f := rfl

theorem okFrom_complete (s : State) (data : Word) : OkFrom s (s.complete .ok data) data := rfl

/-- `exec_effect` with the failures that 60_exceptions.md R263 allows the command. -/
theorem exec_cases {i : Instr} {s t : State} (h : exec i s = .next t) :
    (∃ f ∈ raisable i, t = s.complete (.failure f) 0) ∨ ∃ d data, Effect s i d data ∧ t = d.complete .ok data := by
  obtain ⟨f, rfl⟩ | hd := exec_effect h
  · exact .inl ⟨f, exec_failure_mem_raisable h (by simp), rfl⟩
  · exact .inr hd

/-- Everything the execution of a command word can do. -/
theorem execWord_cases {w : Word} {s t : State} (h : execWord w s = .next t) :
    (∃ f, f ≠ .insufficientShares ∧ t = s.complete (.failure f) 0) ∨
    ∃ i d data, decode w = .ok i ∧ Effect s i d data ∧ t = d.complete .ok data := by
  unfold execWord at h
  split at h
  · rename_i i hi
    obtain ⟨f, hf, rfl⟩ | ⟨d, data, hd, rfl⟩ := exec_cases h
    · exact .inl ⟨f, fun e => insufficientShares_not_mem_raisable i (e ▸ hf), rfl⟩
    · exact .inr ⟨i, d, data, hi, hd, rfl⟩
  · simp only [illegalWord, runCommand_error, Host.Outcome.next.injEq] at h
    exact .inl ⟨.illegalCommand, by decide, h.symm⟩

theorem step_nil {s : State} (h : s.inputs = []) : step s = .next s := by
  simp [step, h]

theorem step_reset {s : State} {rest : List Input} (h : s.inputs = .reset :: rest) :
    step s = .next (applyReset { s with inputs := rest }) := by
  simp [step, h]

theorem step_command {s : State} {w : Word} {rest : List Input} (h : s.inputs = .command w :: rest) :
    step s = execWord w { s with inputs := rest } := by
  simp [step, h]

/-- A command that shows a failure has changed nothing else (60_exceptions.md R264). -/
theorem runCommand_failedWith {s t : State} {body : Except Failure Done} {f : Failure}
    (h : runCommand s body = .next t) (hf : t.status.last = .failure f) : FailedWith s t f := by
  obtain ⟨g, -, rfl⟩ | ⟨d, -, rfl⟩ := runCommand_cases h
  · obtain rfl : g = f := by simpa using hf
    exact failedWith_complete s g
  · simp at hf

theorem exec_failedWith {i : Instr} {s t : State} {f : Failure} (h : exec i s = .next t)
    (hf : t.status.last = .failure f) : FailedWith s t f := by
  obtain ⟨body, hbody⟩ := exec_runCommand i s
  exact runCommand_failedWith (hbody ▸ h) hf

theorem execWord_failedWith {w : Word} {s t : State} {f : Failure} (h : execWord w s = .next t)
    (hf : t.status.last = .failure f) : FailedWith s t f := by
  unfold execWord at h
  split at h
  · exact exec_failedWith h hf
  · exact runCommand_failedWith h hf

/-- A failure sets its sticky bit and keeps the others (10_state.md R34). -/
theorem FailedWith.sticky_eq {s t : State} {f : Failure} (h : FailedWith s t f) :
    t.status.sticky = s.status.sticky ||| stickyBit f := by
  rw [h]; rfl

/-! ### The invariant -/

theorem inv_applyReset (s : State) : (applyReset s).Inv where
  vectorsFit r := by simp [applyReset, State.reset]
  crcCfgReserved := by simp [applyReset, State.reset]
  lfsrCfgReserved := by simp [applyReset, State.reset]
  lastProduced := by simp [applyReset, State.reset]
  stickyProduced := by simp [applyReset, State.reset]
  fieldTables h := by cases h
  crcTable h := by cases h
  crcRegFits h := by cases h

/-- Settles O7: the reset state is what the reset event makes of it. -/
theorem resetStateMeetsInvariant : Obligations.ResetStateMeetsInvariant :=
  inv_applyReset State.reset

theorem xor_toNat_lt {a b : Word} {W : Nat} (ha : a.toNat < 2 ^ W) (hb : b.toNat < 2 ^ W) :
    (a ^^^ b).toNat < 2 ^ W := by
  rw [BitVec.toNat_xor]; exact Nat.xor_lt_two_pow ha hb

theorem truncTo_toNat_lt {W : Nat} (hW : W ≤ 32) (v : Word) : (truncTo W v).toNat < 2 ^ W := by
  rw [toNat_truncTo W v hW]; exact Nat.mod_lt _ (by positivity)

/-- A shift gives a register of W bits, whatever it starts from (46_crc.md R225). -/
theorem crcShift_toNat_lt {W : Nat} (hW : W ≤ 32) {poly : Word} (hp : poly.toNat < 2 ^ W) (reg : Word) :
    (crcShift W poly reg).toNat < 2 ^ W := by
  unfold crcShift
  split
  · exact xor_toNat_lt (truncTo_toNat_lt hW _) hp
  · exact truncTo_toNat_lt hW _

theorem crcShifts_toNat_lt {W : Nat} (hW : W ≤ 32) {poly : Word} (hp : poly.toNat < 2 ^ W) (n : Nat) (reg : Word) :
    (crcShifts W poly (n + 1) reg).toNat < 2 ^ W := by
  rw [crcShifts_add]; exact crcShift_toNat_lt hW hp _

/-- Folding a byte in by the table CRCINIT builds gives a register of W bits. -/
theorem crcUpdate_toNat_lt {W : Nat} (hW : W ≤ 32) {poly : Word} (hp : poly.toNat < 2 ^ W) (refin : Bool) (reg : Word)
    (b : Byte) : (crcUpdate W refin (crcBuildTable W poly) reg b).toNat < 2 ^ W := by
  simp only [crcUpdate, crcBuildTable_getElem]
  exact xor_toNat_lt (truncTo_toNat_lt hW _) (crcShifts_toNat_lt hW hp 7 _)

theorem crcFold_toNat_lt {W : Nat} (hW : W ≤ 32) {poly : Word} (hp : poly.toNat < 2 ^ W) (refin : Bool) {reg : Word}
    (hreg : reg.toNat < 2 ^ W) (msg : List Byte) :
    (crcFold W refin (crcBuildTable W poly) reg msg).toNat < 2 ^ W := by
  unfold crcFold
  induction msg generalizing reg with
  | nil => exact hreg
  | cons b msg ih => exact ih (crcUpdate_toNat_lt hW hp refin reg b)

theorem le_32_of_mem_crcWidths {W : Nat} (h : W ∈ Config.crcWidths) : W ≤ 32 := by
  simp [Config.crcWidths] at h; omega

/-- With the CRC unit ready, a message leaves a register that fits the width (10_state.md R41). -/
theorem crcRegAfter_toNat_lt {s : State} (h : s.CrcReady) {reg : Word} (hreg : reg.toNat < 2 ^ s.crcWidth)
    (msg : List Byte) : (s.crcRegAfter reg msg).toNat < 2 ^ s.crcWidth := by
  obtain ⟨hinv, hready⟩ := h
  obtain ⟨⟨hw, -, hp, -, -⟩, htab⟩ := hinv.crcTable hready
  rw [State.crcRegAfter, htab]
  exact crcFold_toNat_lt (le_32_of_mem_crcWidths hw) hp _ hreg msg

/-- Clearing sticky bits keeps the invariant. -/
theorem inv_clearSticky {s : State} (h : s.Inv) (w : Word) : State.Inv { s with status := clearSticky s.status w } :=
  { h with
    stickyProduced := by rw [clearSticky, BitVec.getLsbD_and, h.stickyProduced, Bool.false_and] }

/-- A new CRC configuration keeps the invariant, because `CRDY` is cleared with it (10_state.md R42). -/
theorem inv_crcConfiguration {s : State} (h : s.Inv) {cfg : Word} (hcfg : cfg &&& 0xFFFFFCC0#32 = 0)
    (poly init xorout : Word) :
    (State.clearCrdy { s with crcCfg := cfg, crcPoly := poly, crcInit := init, crcXorout := xorout }).Inv :=
  { h with
    crcCfgReserved := hcfg
    crcTable h' := by cases h'
    crcRegFits h' := by cases h' }

/-- A `CRC_REG` that fits the width keeps the invariant. -/
theorem inv_crcReg {s : State} (h : s.Inv) {reg : Word} (hreg : reg.toNat < 2 ^ s.crcWidth) :
    State.Inv { s with crcReg := reg } :=
  { h with crcRegFits _ := hreg }

/-- The LFSR registers are bound by the reserved bits of `LFSR_CFG` alone. -/
theorem inv_lfsr {s : State} (h : s.Inv) {cfg : Word} (hcfg : cfg &&& 0xFFFFFEC0#32 = 0) (taps st : Word) :
    State.Inv { s with lfsrCfg := cfg, lfsrTaps := taps, lfsrState := st } :=
  { h with lfsrCfgReserved := hcfg }

theorem crcInit_toNat_lt {s : State} (h : s.crcConfigOk) : s.crcInit.toNat < 2 ^ s.crcWidth := by
  obtain ⟨-, -, -, hinit, -⟩ := h
  exact hinit

/-- INIT keeps the invariant: `FRDY` is set with tables that passed the assertion. -/
theorem inv_init {s : State} (h : s.Inv) (hok : gfTablesOk s.fieldPoly s.fieldGen = true) :
    State.Inv { s with
      tables := gfBuildTables s.fieldPoly s.fieldGen, status := { s.status with frdy := true } } :=
  { h with fieldTables _ := ⟨hok, rfl⟩ }

/-- CRCINIT keeps the invariant: `CRDY` is set with the table of a configuration that passed the checks. -/
theorem inv_crcinit {s : State} (h : s.Inv) (hok : s.crcConfigOk) :
    State.Inv { s with
      crctab := crcBuildTable s.crcWidth s.crcPoly, crcReg := s.crcInit,
      status := { s.status with crdy := true } } :=
  { h with
    crcTable _ := ⟨hok, rfl⟩
    crcRegFits _ := crcInit_toNat_lt hok }

/-- What a command that succeeds does before it completes keeps the invariant. -/
theorem Effect.inv {s d : State} {i : Instr} {data : Word} (he : Effect s i d data) (h : s.Inv) : d.Inv := by
  have hlfsr := h.lfsrCfgReserved
  have hcrc := h.crcCfgReserved
  cases he with
  | nop | rd => exact h
  | scalar r w => exact inv_setX h r w
  | vector r l _ hl => exact inv_setV h r (hl h.vectorsFit)
  | vectorScalar r l q w _ _ hl => exact inv_setX (inv_setV h r (hl h.vectorsFit)) q w
  | twoVectors r l q m _ _ hlm =>
    obtain ⟨hl, hm⟩ := hlm h.vectorsFit
    exact inv_setV (inv_setV h r hl) q hm
  | init hok => exact inv_init h hok
  | crcinit hok => exact inv_crcinit h hok
  | crcrst hready => exact inv_crcReg h (crcInit_toNat_lt (h.crcTable hready).1)
  | crcupd vs hready => exact inv_crcReg h (crcRegAfter_toNat_lt ⟨h, hready⟩ (h.crcRegFits hready) _)
  | crc rd vs w hready =>
    have hinit := crcInit_toNat_lt (h.crcTable hready).1
    exact inv_setX (inv_crcReg h (crcRegAfter_toNat_lt ⟨h, hready⟩ hinit _)) rd w
  | lfsrseed rs => exact inv_lfsr h hlfsr _ _
  | lfsrstep rd st w => exact inv_setX (inv_lfsr h hlfsr _ st) rd w
  | lfsrn rd count st w => exact inv_setX (inv_lfsr h hlfsr _ st) rd w
  | csrwStatus rs => exact inv_clearSticky h _
  | csrwCrcCfg rs hcfg => exact inv_crcConfiguration h hcfg _ _ _
  | csrwCrcPoly rs | csrwCrcInit rs | csrwCrcXorout rs => exact inv_crcConfiguration h hcrc _ _ _
  | csrwCrcReg rs _ hfits => exact inv_crcReg h hfits
  | csrwLfsrCfg rs hcfg => exact inv_lfsr h hcfg _ _
  | csrwLfsrTaps rs => exact inv_lfsr h hlfsr _ _

theorem inv_execWord {w : Word} {s t : State} (hs : s.Inv) (h : execWord w s = .next t) : t.Inv := by
  obtain ⟨f, hf, rfl⟩ | ⟨i, d, data, -, he, rfl⟩ := execWord_cases h
  · exact inv_complete_failure hs hf 0
  · exact inv_complete_ok (he.inv hs) data

/-- Every step keeps the invariant: with no input, at reset, and on a command word. -/
theorem inv_step {s t : State} (hs : s.Inv) (h : step s = .next t) : t.Inv := by
  match hin : s.inputs with
  | [] => rw [step_nil hin] at h; cases h; exact hs
  | .reset :: rest => rw [step_reset hin] at h; cases h; exact inv_applyReset _
  | .command w :: rest => rw [step_command hin] at h; exact inv_execWord (inv_inputs hs rest) h

/-- Settles O8, by the cases of an input and then of a command's effect. -/
theorem stepKeepsInvariant : Obligations.StepKeepsInvariant :=
  fun _ _ hs h => inv_step hs h

end Sys2Proof.Machine

namespace Sys2Proof.Machine

/-! ### Registers -/

/-- A successful command changes no scalar register but its destinations. -/
theorem Effect.x_eq {s d : State} {i : Instr} {data : Word} (he : Effect s i d data) {r : XReg}
    (hr : r ∉ scalarDests i) : d.x[r] = s.x[r] := by
  have write (s : State) (q : XReg) (w : Word) (hq : q ∈ scalarDests i) : (s.setX q w).x[r] = s.x[r] :=
    setX_read_other s q r w (fun e => hr (e ▸ hq))
  cases he with
  | scalar q w hq => exact write s q w hq
  | vectorScalar v l q w _ hq => exact write _ q w hq
  | crc rd vs w => exact write _ rd w (by simp [scalarDests])
  | lfsrstep rd st w => exact write _ rd w (by simp [scalarDests])
  | lfsrn rd count st w => exact write _ rd w (by simp [scalarDests])
  | _ => rfl

/-- A successful command changes no vector register but its destinations. -/
theorem Effect.v_eq {s d : State} {i : Instr} {data : Word} (he : Effect s i d data) {r : VReg}
    (hr : r ∉ vectorDests i) : d.v[r] = s.v[r] := by
  have write (s : State) (q : VReg) (l : List Byte) (hq : q ∈ vectorDests i) : (s.setV q l).v[r] = s.v[r] :=
    setV_read_other s q r l (fun e => hr (e ▸ hq))
  cases he with
  | vector q l hq => exact write s q l hq
  | vectorScalar q l _ _ hq => exact write s q l hq
  | twoVectors q l p m hq hp => exact (write _ p m hp).trans (write s q l hq)
  | _ => rfl

/-- Settles O19: a failure changes no register, and a success only the destinations of its effect. -/
theorem onlyNamedDestinationsChange : Obligations.OnlyNamedDestinationsChange := by
  intro i s t h
  obtain ⟨f, rfl⟩ | ⟨d, data, he, rfl⟩ := exec_effect h
  · exact ⟨fun r hr => absurd rfl hr, fun r hr => absurd rfl hr⟩
  · exact ⟨fun r hr => ⟨by simp, by_contra fun hd => hr (he.x_eq hd)⟩,
      fun r hr => ⟨by simp, by_contra fun hd => hr (he.v_eq hd)⟩⟩

/-! ### Tables and control registers -/

/-- Settles O20, by the cases of a command's effect. -/
theorem tablesAndControlRegistersChangeOnlyByTheirCommands :
    Obligations.TablesAndControlRegistersChangeOnlyByTheirCommands := by
  intro i s t h
  obtain ⟨f, rfl⟩ | ⟨d, data, he, rfl⟩ := exec_effect h
  · simp
  · cases he with
    | nop | rd | scalar | vector | vectorScalar | twoVectors => simp
    | init | crcinit | crcrst | crcupd | crc | lfsrseed | lfsrstep | lfsrn => simp
    | csrwStatus | csrwCrcReg | csrwLfsrCfg | csrwLfsrTaps => simp
    | csrwCrcCfg | csrwCrcPoly | csrwCrcInit | csrwCrcXorout => simp [State.clearCrdy]

end Sys2Proof.Machine

namespace Sys2Proof.Machine

/-! ### What `STATUS` records -/

/-- Bits 7:4 of `STATUS` are `LAST` (10_state.md R32). -/
@[simp] theorem statusWord_last (st : Status) : (statusWord st).extractLsb' 4 4 = codeBits st.last := by
  refine BitVec.eq_of_getLsbD_eq fun i hi => ?_
  simp only [statusWord, BitVec.getLsbD_extractLsb', BitVec.getLsbD_append]
  grind

/-- Bits 15:8 of `STATUS` are `STICKY` (10_state.md R32). -/
@[simp] theorem statusWord_sticky (st : Status) : (statusWord st).extractLsb' 8 8 = st.sticky := by
  refine BitVec.eq_of_getLsbD_eq fun i hi => ?_
  simp only [statusWord, BitVec.getLsbD_extractLsb', BitVec.getLsbD_append]
  grind

/-- A success before it completes has answered nothing yet. -/
theorem Effect.responses_eq {s d : State} {i : Instr} {data : Word} (he : Effect s i d data) :
    d.responses = s.responses := by
  cases he <;> rfl

/-- Every command word is answered with one response, whose code is what `LAST` shows. -/
theorem execWord_answers_last {w : Word} {s t : State} (h : execWord w s = .next t) :
    ∃ r, t.responses = s.responses ++ [r] ∧ t.status.last = r.code := by
  obtain ⟨f, -, rfl⟩ | ⟨i, d, data, -, he, rfl⟩ := execWord_cases h
  · exact ⟨⟨.failure f, 0⟩, rfl, rfl⟩
  · exact ⟨⟨.ok, data⟩, by rw [complete_responses, he.responses_eq], rfl⟩

/-- CSRR of `STATUS` writes the word that `STATUS` read as before it completed (40_system_and_move.md R103). -/
theorem exec_csrr_status (s : State) (rd : XReg) :
    exec (.csrr rd 0x00) s = .next ((s.setX rd (statusWord s.status)).complete .ok 0) := rfl

/-- Settles O12: the completion records the code of the response it appends. -/
theorem lastRecordsEveryCompletion : Obligations.LastRecordsEveryCompletion := by
  refine ⟨fun s t w rest hin h => ?_, fun s rd => ⟨_, exec_csrr_status s rd, ?_, rfl⟩⟩
  · rw [step_command hin] at h
    obtain ⟨r, hr, hlast⟩ := execWord_answers_last h
    have hbits : (statusWord t.status).extractLsb' 4 4 = codeBits r.code := by rw [statusWord_last, hlast]
    refine ⟨r, hr, hlast, hbits, fun p hp hcode => ?_⟩
    rw [hbits, hcode]
    revert p
    simp [codeBits, failureNumber]
  · exact setX_read_same s rd _

/-- A success other than a CSRW to `STATUS` leaves the sticky bits alone. -/
theorem Effect.sticky_eq {s d : State} {i : Instr} {data : Word} (he : Effect s i d data)
    (hi : ∀ rs, i ≠ .csrw 0x00 rs) : d.status.sticky = s.status.sticky := by
  cases he with
  | csrwStatus rs => exact absurd rfl (hi rs)
  | _ => rfl

/-- Bit 8 + i of `STATUS` is sticky bit i. -/
theorem getLsbD_statusWord_sticky (st : Status) {i : Nat} (hi : i < 8) :
    (statusWord st).getLsbD (8 + i) = st.sticky.getLsbD i := by
  rw [← statusWord_sticky st, BitVec.getLsbD_extractLsb']
  simp [hi]

theorem getLsbD_stickyBit (f : Failure) : (stickyBit f).getLsbD (failureNumber f - 1) = true := by
  cases f <;> decide

/-- Everything a CSRW to `STATUS` does, by the reserved bits of the value written. -/
theorem exec_csrw_status (s : State) (rs : XReg) :
    exec (.csrw 0x00 rs) s =
      if s.x[rs] &&& 0xFFFF000C#32 = 0 then
        .next (State.complete { s with status := clearSticky s.status s.x[rs] } .ok 0)
      else .next (s.complete (.failure .invalidParameters) 0) := by
  simp only [← status_reserved_iff]
  exact runCommand_require s _ _ _

/-- Settles O13, from what a failure, a success and a CSRW to `STATUS` leave in `STICKY`. -/
theorem stickyBitsAccumulate : Obligations.StickyBitsAccumulate := by
  refine ⟨fun s t w rest f hin h hf => ?_, fun i s t f h hf => ?_, fun i s t h hok hi => ?_, fun i s t h p hp hf => ?_,
    fun s rs hx => ?_, fun s rs hx => ?_, fun s rest hin => ?_⟩
  · rw [step_command hin] at h
    rw [statusWord_sticky, statusWord_sticky]
    exact ((execWord_failedWith h hf).sticky_eq :)
  · rw [statusWord_sticky, statusWord_sticky]
    exact (exec_failedWith h hf).sticky_eq
  · obtain ⟨f, rfl⟩ | ⟨d, data, he, rfl⟩ := exec_effect h
    · simp at hok
    · simpa using he.sticky_eq hi
  · have hp2 : p.2 = 8 + (failureNumber p.1 - 1) ∧ failureNumber p.1 - 1 < 8 := by
      revert p; simp [failureNumber]
    rw [hp2.1, getLsbD_statusWord_sticky _ hp2.2, (exec_failedWith h hf).sticky_eq, BitVec.getLsbD_or, getLsbD_stickyBit,
      Bool.or_true]
  · exact ⟨_, (exec_csrw_status s rs).trans (if_pos hx), okFrom_complete _ _⟩
  · exact ⟨_, (exec_csrw_status s rs).trans (if_neg hx), failedWith_complete _ _⟩
  · exact ⟨_, step_reset hin, by simp [applyReset, State.reset]⟩

/-! ### Tables that are not ready -/

/-- A command whose first check does not hold. -/
theorem runCommand_require_neg (s : State) {c : Prop} [Decidable c] (hc : ¬ c) (f : Failure)
    (k : Unit → Except Failure Done) : runCommand s (require c f >>= k) = .next (s.complete (.failure f) 0) := by
  rw [runCommand_require, if_neg hc]

theorem readTable_without_fieldTables {s : State} (hr : s.status.frdy = false) (i : Nat) {c : Table} (hc : c ≠ .crctab) :
    readTable s i c = .error .notInitialized := by
  cases c with
  | log | alog => simp [readTable, hr]
  | crctab => exact absurd rfl hc

theorem readTable_without_crcTable {s : State} (hr : s.status.crdy = false) (i : Nat) :
    readTable s i .crctab = .error .notInitialized := by
  simp [readTable, hr]

theorem exec_tblrd_fails {s : State} {rd rs : XReg} {sel : Byte} {c : Table} {f : Failure}
    (hsel : tableOfSelector sel = some c) (h : readTable s (s.natOf rs) c = .error f) :
    exec (.tblrd rd sel rs) s = .next (s.complete (.failure f) 0) := by
  simp only [exec, execTblrd, hsel, h, error_bind, runCommand_error]

/-- Without the field tables a well-formed command that reads them fails, whatever its operands. -/
theorem exec_without_fieldTables {i : Instr} {s : State} (hi : wellFormed i = true)
    (hneeds : needsFieldTables i = true) (hr : s.status.frdy = false) :
    exec i s = .next (s.complete (.failure .notInitialized) 0) := by
  have hnot : ¬ s.status.frdy = true := by simp [hr]
  cases i <;> simp only [needsFieldTables, Bool.false_eq_true] at hneeds
  case tblrd rd sel rs =>
    have hsel : sel = 0 ∨ sel = 1 := by simpa using hneeds
    obtain rfl | rfl := hsel
    · exact exec_tblrd_fails (c := .log) rfl (readTable_without_fieldTables hr _ (by decide))
    · exact exec_tblrd_fails (c := .alog) rfl (readTable_without_fieldTables hr _ (by decide))
  case pdivmod vq vr vs vt =>
    have hne : vq ≠ vr := by simpa [wellFormed] using hi
    exact (runCommand_require s _ _ _).trans ((if_pos hne).trans (runCommand_require_neg s hnot _ _))
  all_goals exact runCommand_require_neg s hnot _ _

/-- Without the CRC table a well-formed command that reads it fails, whatever its operands. -/
theorem exec_without_crcTable {i : Instr} {s : State} (hneeds : needsCrcTable i = true) (hr : s.status.crdy = false) :
    exec i s = .next (s.complete (.failure .notInitialized) 0) := by
  have hnot : ¬ s.status.crdy = true := by simp [hr]
  cases i <;> simp only [needsCrcTable, Bool.false_eq_true] at hneeds
  case csrw csr rs =>
    obtain rfl : csr = 0x14 := by simpa using hneeds
    exact runCommand_require_neg s hnot _ _
  case tblrd rd sel rs =>
    obtain rfl : sel = 2 := by simpa using hneeds
    exact exec_tblrd_fails (c := .crctab) rfl (readTable_without_crcTable hr _)
  all_goals exact runCommand_require_neg s hnot _ _

/-- Settles O22: the missing table is the first thing each of these commands checks, or PDIVMOD's second. -/
theorem commandsNeedTheirTables : Obligations.CommandsNeedTheirTables :=
  ⟨fun _ s hi hneeds hr => ⟨_, exec_without_fieldTables hi hneeds hr, failedWith_complete s _⟩,
   fun _ s _ hneeds hr => ⟨_, exec_without_crcTable hneeds hr, failedWith_complete s _⟩⟩

/-- A CSRW to a CRC configuration register clears `CRDY` (10_state.md R42). -/
theorem Effect.crdy_of_csrw_crcConfiguration {s d : State} {csr : Byte} {rs : XReg} {data : Word}
    (he : Effect s (.csrw csr rs) d data) (hcsr : csr ∈ [0x10#8, 0x11#8, 0x12#8, 0x13#8]) :
    d.status.crdy = false := by
  cases he with
  | csrwCrcCfg | csrwCrcPoly | csrwCrcInit | csrwCrcXorout => rfl
  | scalar _ _ hr => simp [scalarDests] at hr
  | vector _ _ hr | vectorScalar _ _ _ _ hr | twoVectors _ _ _ _ hr => simp [vectorDests] at hr
  | csrwStatus | csrwCrcReg | csrwLfsrCfg | csrwLfsrTaps => exact absurd hcsr (by decide)

/-- Settles O23: the second part reads the invariant of the state after the step. -/
theorem configurationWriteClearsCrdy : Obligations.ConfigurationWriteClearsCrdy := by
  refine ⟨fun s t csr rs hcsr h hok => ?_, fun s t hs h hready => ?_⟩
  · obtain ⟨f, rfl⟩ | ⟨d, data, he, rfl⟩ := exec_effect h
    · simp at hok
    · exact he.crdy_of_csrw_crcConfiguration hcsr
  · obtain ⟨⟨hw, hp, hpoly, hinit, hxor⟩, htab⟩ := (inv_step hs h).crcTable hready
    refine ⟨hw, hp, hpoly, hinit, hxor, fun i => ?_⟩
    rw [htab]
    simp

end Sys2Proof.Machine

namespace Sys2Proof.Machine

/-! ### Tables that are not ready are never observed -/

/-- Two bodies that raise the same failure, or that succeed with the same data in states that differ at most in tables
that are not ready. -/
inductive SameBody : Except Failure Done → Except Failure Done → Prop
  | error (f : Failure) : SameBody (.error f) (.error f)
  | ok {d d' : State} (data : Word) : SameButUnreadyTables d d' → SameBody (.ok ⟨d, data⟩) (.ok ⟨d', data⟩)

theorem SameBody.done {d d' : State} (h : SameButUnreadyTables d d') : SameBody (done d) (done d') := .ok 0 h

/-- The same check, then bodies that agree where it holds. -/
theorem SameBody.require {c : Prop} [Decidable c] {f : Failure} {k k' : Unit → Except Failure Done}
    (h : c → SameBody (k ()) (k' ())) : SameBody (require c f >>= k) (require c f >>= k') := by
  rw [require_bind, require_bind]
  split
  · exact h ‹_›
  · exact .error f

/-- The same computation, then bodies that agree on its result. -/
theorem SameBody.bind {α : Type} {m m' : Except Failure α} {k k' : α → Except Failure Done} (hm : m' = m)
    (h : ∀ a, SameBody (k a) (k' a)) : SameBody (m >>= k) (m' >>= k') := by
  subst hm
  cases m' with
  | error f => exact .error f
  | ok a => exact h a

/-- Two outcomes that are next states which differ at most in tables that are not ready. -/
def SameOutcome (o o' : Outcome) : Prop :=
  ∃ t t', o = .next t ∧ o' = .next t' ∧ SameButUnreadyTables t t'

theorem SameButUnreadyTables.complete {s s' : State} (h : SameButUnreadyTables s s') (c : Code) (data : Word) :
    SameButUnreadyTables (s.complete c data) (s'.complete c data) := by
  obtain ⟨h, hfield, hcrc⟩ := h
  refine ⟨?_, by simpa using hfield, by simpa using hcrc⟩
  rw [h]; rfl

theorem SameBody.runCommand {s s' : State} (hs : SameButUnreadyTables s s') {body body' : Except Failure Done}
    (h : SameBody body body') : SameOutcome (runCommand s body) (runCommand s' body') := by
  cases h with
  | error f => exact ⟨_, _, rfl, rfl, hs.complete _ _⟩
  | ok data hd => exact ⟨_, _, rfl, rfl, hd.complete _ _⟩

/-- The second state is the first with other tables in place of those that are not ready. -/
theorem SameButUnreadyTables.exists_tables {s s' : State} (h : SameButUnreadyTables s s') :
    ∃ T C, s' = { s with tables := T, crctab := C } ∧ (s.status.frdy = true → T = s.tables) ∧
      (s.status.crdy = true → C = s.crctab) :=
  ⟨_, _, h⟩

theorem sameBody_writeCsr {s s' : State} (h : SameButUnreadyTables s s') (w : Word) (c : Csr) :
    SameBody (writeCsr s w c) (writeCsr s' w c) := by
  obtain ⟨T, C, rfl, hT, hC⟩ := h.exists_tables
  cases c with
  | status | lfsrCfg => exact .require fun _ => .done ⟨rfl, hT, hC⟩
  | crcCfg => exact .require fun _ => .done ⟨rfl, hT, nofun⟩
  | crcReg => exact .require fun _ => .require fun _ => .done ⟨rfl, hT, hC⟩
  | lfsrTaps => exact .done ⟨rfl, hT, hC⟩
  | crcPoly | crcInit | crcXorout => exact .done ⟨rfl, hT, nofun⟩
  | fieldPoly | fieldGen | lfsrState => exact .error _

/-- A table is read only when it is ready. -/
theorem readTable_congr {s s' : State} (h : SameButUnreadyTables s s') (i : Nat) (c : Table) :
    readTable s' i c = readTable s i c := by
  obtain ⟨T, C, rfl, hT, hC⟩ := h.exists_tables
  cases c with
  | log | alog =>
    by_cases hr : s.status.frdy = true
    · rw [hT hr]; rfl
    · simp [readTable, hr]
  | crctab =>
    by_cases hr : s.status.crdy = true
    · rw [hC hr]; rfl
    · simp [readTable, hr]

/-- Every command checks a table's ready flag before it reads the table, and reads no other. -/
theorem sameOutcome_exec (i : Instr) {s s' : State} (h : SameButUnreadyTables s s') :
    SameOutcome (exec i s) (exec i s') := by
  have hwrite := sameBody_writeCsr h
  have hread := readTable_congr h
  obtain ⟨T, C, rfl, hT, hC⟩ := h.exists_tables
  cases i
  case nop | rd | li | lih | mov | gfadd | vclr | vlen | vmov | vrev => exact ⟨_, _, rfl, rfl, rfl, hT, hC⟩
  all_goals refine SameBody.runCommand h ?_
  case init => exact .require fun _ => .done ⟨rfl, fun _ => rfl, hC⟩
  case crcinit => exact .require fun _ => .require fun _ => .require fun _ => .done ⟨rfl, hT, fun _ => rfl⟩
  case csrr => exact .bind rfl fun c => by cases c <;> exact .done ⟨rfl, hT, hC⟩
  case csrw => exact .bind rfl fun c => .require fun _ => hwrite _ c
  case tblrd rd sel rs =>
    cases tableOfSelector sel with
    | none => exact .error _
    | some c => exact .bind (hread (s.natOf rs) c) fun _ => .done ⟨rfl, hT, hC⟩
  case vpushi | vpush | vget | vset | ptrim => exact .require fun _ => .done ⟨rfl, hT, hC⟩
  case lfsrstep => exact .require fun _ => .done ⟨rfl, hT, hC⟩
  case lfsrn => exact .require fun _ => .require fun _ => .done ⟨rfl, hT, hC⟩
  case lfsrseed => exact .require fun _ => .require fun _ => .require fun _ => .done ⟨rfl, hT, hC⟩
  case pdivmod =>
    refine .require fun _ => .require fun hr => ?_
    obtain rfl := hT hr
    exact .require fun _ => .bind rfl fun _ => .done ⟨rfl, hT, hC⟩
  case crcrst | crcupd | crcfin | crc =>
    refine .require fun hr => ?_
    obtain rfl := hC hr
    exact .done ⟨rfl, hT, hC⟩
  all_goals
    refine .require fun hr => ?_
    obtain rfl := hT hr
  case gfmul | gfpow => exact .done ⟨rfl, hT, hC⟩
  case peval | rsgen | rsenc | rssyn | rsloc | rseval | rschien => exact .require fun _ => .done ⟨rfl, hT, hC⟩
  case pmul => exact .require fun _ => .require fun _ => .done ⟨rfl, hT, hC⟩
  case gfinv | gfdiv | rsdec | rsdece => exact .bind rfl fun _ => .done ⟨rfl, hT, hC⟩
  case rsforn => exact .require fun _ => .require fun _ => .bind rfl fun _ => .done ⟨rfl, hT, hC⟩

theorem sameOutcome_execWord (w : Word) {s s' : State} (h : SameButUnreadyTables s s') :
    SameOutcome (execWord w s) (execWord w s') := by
  unfold execWord
  split
  · exact sameOutcome_exec _ h
  · exact SameBody.runCommand h (.error _)

theorem sameOutcome_step {s s' : State} (h : SameButUnreadyTables s s') : SameOutcome (step s) (step s') := by
  have hin' : s'.inputs = s.inputs := by rw [h.1]
  match hin : s.inputs with
  | [] => exact ⟨_, _, step_nil hin, step_nil (hin'.trans hin), h⟩
  | .reset :: rest =>
    exact ⟨_, _, step_reset hin, step_reset (hin'.trans hin), by rw [h.1]; rfl, nofun, nofun⟩
  | .command w :: rest =>
    rw [step_command hin, step_command (hin'.trans hin)]
    exact sameOutcome_execWord w ⟨by rw [h.1], h.2⟩

/-- Settles O21, by running both states in step. -/
theorem unreadyTablesAreUnobservable : Obligations.UnreadyTablesAreUnobservable := by
  intro s s' t h hstep
  obtain ⟨u, u', hu, hu', hsame⟩ := sameOutcome_step h
  rw [hstep] at hu
  cases hu
  exact ⟨u', hu', hsame⟩

end Sys2Proof.Machine

namespace Sys2Proof

/-! ### The fields of a word -/

/-- The fields of a packed word are the fields packed (30_encoding.md R82). -/
@[simp] theorem unpack_pack (f : Fields) : unpack (pack f) = f := by
  obtain ⟨op, a, b, c, d, i8⟩ := f
  simp only [unpack, pack, Fields.mk.injEq]
  refine ⟨?_, ?_, ?_, ?_, ?_, ?_⟩ <;> ext i hi <;>
    simp only [BitVec.getElem_extractLsb', BitVec.getLsbD_append] <;> grind

/-- The fields cover the word: packing them gives it back (R82). -/
@[simp] theorem pack_unpack (w : Word) : pack (unpack w) = w := by
  refine BitVec.eq_of_getLsbD_eq fun i hi => ?_
  simp only [unpack, pack, BitVec.getLsbD_append, BitVec.getLsbD_extractLsb']
  grind

/-- A word is its fields. -/
theorem unpack_inj {w w' : Word} : unpack w = unpack w' ↔ w = w' :=
  (Function.LeftInverse.injective pack_unpack).eq_iff

/-! ### The operands of a field -/

/-- The vector register that bits 2:0 of a field name (R82): what `vField` answers. -/
def vReg (n : BitVec 4) : VReg := (n.setWidth 3).toFin

@[simp] theorem xBits_xField (n : BitVec 4) : xBits (xField n) = n := rfl

/-- A vector field is accepted exactly when its bit 3 is clear (R82). -/
theorem vField_eq_ite (n : BitVec 4) : vField n = if n &&& 8#4 = 0 then .ok (vReg n) else .error .vectorField := by
  revert n; decide

theorem vBits_vReg {n : BitVec 4} (h : n &&& 8#4 = 0) : vBits (vReg n) = n := by
  revert n; decide

@[simp] theorem vBits_and_eight (r : VReg) : vBits r &&& 8#4 = 0 := by
  revert r; decide

/-! ### The formats -/

/-- A format that has made its checks. -/
theorem pure_eq_ok_iff (i j : Instr) : (pure i : Except Reject Instr) = .ok j ↔ j = i := by
  simp [pure, Except.pure, eq_comm]

/-- A format that checks its unused fields first. -/
theorem unused_bind_eq_ok_iff (c : Bool) (k : Unit → Except Reject Instr) (i : Instr) :
    (unused c >>= k) = .ok i ↔ k () = .ok i ∧ c = true := by
  cases c <;> simp [unused, bind, Except.bind]

/-- A format that takes a vector register next. -/
theorem vField_bind_eq_ok_iff (n : BitVec 4) (k : VReg → Except Reject Instr) (i : Instr) :
    (vField n >>= k) = .ok i ↔ k (vReg n) = .ok i ∧ n &&& 8#4 = 0 := by
  rw [vField_eq_ite]
  by_cases h : n &&& 8#4 = 0
  · simp only [h, if_true, and_true]; rfl
  · simp only [h, if_false, and_false, iff_false]; nofun

/-! A format answers a command exactly when the operands are those of its fields, the vector fields have bit 3 clear,
and the unused fields are 0 (30_encoding.md R82, R83). -/

@[simp] theorem formatZ_eq_ok_iff (f : Fields) (k : Instr) (i : Instr) :
    formatZ f k = .ok i ↔ i = k ∧ f.a = 0 ∧ f.b = 0 ∧ f.c = 0 ∧ f.d = 0 ∧ f.i8 = 0 := by
  simp only [formatZ, unused_bind_eq_ok_iff, pure_eq_ok_iff, decide_eq_true_eq]

@[simp] theorem formatD_eq_ok_iff (f : Fields) (k : XReg → Instr) (i : Instr) :
    formatD f k = .ok i ↔ i = k (xField f.a) ∧ f.b = 0 ∧ f.c = 0 ∧ f.d = 0 ∧ f.i8 = 0 := by
  simp only [formatD, unused_bind_eq_ok_iff, pure_eq_ok_iff, decide_eq_true_eq]

@[simp] theorem formatS_eq_ok_iff (f : Fields) (k : XReg → Instr) (i : Instr) :
    formatS f k = .ok i ↔ i = k (xField f.b) ∧ f.a = 0 ∧ f.c = 0 ∧ f.d = 0 ∧ f.i8 = 0 := by
  simp only [formatS, unused_bind_eq_ok_iff, pure_eq_ok_iff, decide_eq_true_eq]

@[simp] theorem formatDI_eq_ok_iff (f : Fields) (k : XReg → Byte → Instr) (i : Instr) :
    formatDI f k = .ok i ↔ i = k (xField f.a) f.i8 ∧ f.b = 0 ∧ f.c = 0 ∧ f.d = 0 := by
  simp only [formatDI, unused_bind_eq_ok_iff, pure_eq_ok_iff, decide_eq_true_eq]

@[simp] theorem formatSI_eq_ok_iff (f : Fields) (k : Byte → XReg → Instr) (i : Instr) :
    formatSI f k = .ok i ↔ i = k f.i8 (xField f.b) ∧ f.a = 0 ∧ f.c = 0 ∧ f.d = 0 := by
  simp only [formatSI, unused_bind_eq_ok_iff, pure_eq_ok_iff, decide_eq_true_eq]

@[simp] theorem formatRI16_eq_ok_iff (f : Fields) (k : XReg → BitVec 16 → Instr) (i : Instr) :
    formatRI16 f k = .ok i ↔ i = k (xField f.a) f.i16 ∧ f.b = 0 := by
  simp only [formatRI16, unused_bind_eq_ok_iff, pure_eq_ok_iff, decide_eq_true_eq]

@[simp] theorem formatRR_eq_ok_iff (f : Fields) (k : XReg → XReg → Instr) (i : Instr) :
    formatRR f k = .ok i ↔ i = k (xField f.a) (xField f.b) ∧ f.c = 0 ∧ f.d = 0 ∧ f.i8 = 0 := by
  simp only [formatRR, unused_bind_eq_ok_iff, pure_eq_ok_iff, decide_eq_true_eq]

@[simp] theorem formatRRI_eq_ok_iff (f : Fields) (k : XReg → Byte → XReg → Instr) (i : Instr) :
    formatRRI f k = .ok i ↔ i = k (xField f.a) f.i8 (xField f.b) ∧ f.c = 0 ∧ f.d = 0 := by
  simp only [formatRRI, unused_bind_eq_ok_iff, pure_eq_ok_iff, decide_eq_true_eq]

@[simp] theorem formatRRR_eq_ok_iff (f : Fields) (k : XReg → XReg → XReg → Instr) (i : Instr) :
    formatRRR f k = .ok i ↔ i = k (xField f.a) (xField f.b) (xField f.c) ∧ f.d = 0 ∧ f.i8 = 0 := by
  simp only [formatRRR, unused_bind_eq_ok_iff, pure_eq_ok_iff, decide_eq_true_eq]

@[simp] theorem formatV_eq_ok_iff (f : Fields) (k : VReg → Instr) (i : Instr) :
    formatV f k = .ok i ↔ i = k (vReg f.a) ∧ f.a &&& 8#4 = 0 ∧ f.b = 0 ∧ f.c = 0 ∧ f.d = 0 ∧ f.i8 = 0 := by
  simp only [formatV, unused_bind_eq_ok_iff, vField_bind_eq_ok_iff, pure_eq_ok_iff, decide_eq_true_eq, and_assoc]

@[simp] theorem formatVI_eq_ok_iff (f : Fields) (k : VReg → Byte → Instr) (i : Instr) :
    formatVI f k = .ok i ↔ i = k (vReg f.a) f.i8 ∧ f.a &&& 8#4 = 0 ∧ f.b = 0 ∧ f.c = 0 ∧ f.d = 0 := by
  simp only [formatVI, unused_bind_eq_ok_iff, vField_bind_eq_ok_iff, pure_eq_ok_iff, decide_eq_true_eq, and_assoc]

@[simp] theorem formatVS_eq_ok_iff (f : Fields) (k : VReg → XReg → Instr) (i : Instr) :
    formatVS f k = .ok i ↔ i = k (vReg f.a) (xField f.b) ∧ f.a &&& 8#4 = 0 ∧ f.c = 0 ∧ f.d = 0 ∧ f.i8 = 0 := by
  simp only [formatVS, unused_bind_eq_ok_iff, vField_bind_eq_ok_iff, pure_eq_ok_iff, decide_eq_true_eq, and_assoc]

@[simp] theorem formatVRR_eq_ok_iff (f : Fields) (k : VReg → XReg → XReg → Instr) (i : Instr) :
    formatVRR f k = .ok i ↔ i = k (vReg f.a) (xField f.b) (xField f.c) ∧ f.a &&& 8#4 = 0 ∧ f.d = 0 ∧ f.i8 = 0 := by
  simp only [formatVRR, unused_bind_eq_ok_iff, vField_bind_eq_ok_iff, pure_eq_ok_iff, decide_eq_true_eq, and_assoc]

@[simp] theorem formatRV_eq_ok_iff (f : Fields) (k : XReg → VReg → Instr) (i : Instr) :
    formatRV f k = .ok i ↔ i = k (xField f.a) (vReg f.b) ∧ f.b &&& 8#4 = 0 ∧ f.c = 0 ∧ f.d = 0 ∧ f.i8 = 0 := by
  simp only [formatRV, unused_bind_eq_ok_iff, vField_bind_eq_ok_iff, pure_eq_ok_iff, decide_eq_true_eq, and_assoc]

@[simp] theorem formatRVR_eq_ok_iff (f : Fields) (k : XReg → VReg → XReg → Instr) (i : Instr) :
    formatRVR f k = .ok i ↔ i = k (xField f.a) (vReg f.b) (xField f.c) ∧ f.b &&& 8#4 = 0 ∧ f.d = 0 ∧ f.i8 = 0 := by
  simp only [formatRVR, unused_bind_eq_ok_iff, vField_bind_eq_ok_iff, pure_eq_ok_iff, decide_eq_true_eq, and_assoc]

@[simp] theorem formatSV_eq_ok_iff (f : Fields) (k : VReg → Instr) (i : Instr) :
    formatSV f k = .ok i ↔ i = k (vReg f.b) ∧ f.b &&& 8#4 = 0 ∧ f.a = 0 ∧ f.c = 0 ∧ f.d = 0 ∧ f.i8 = 0 := by
  simp only [formatSV, unused_bind_eq_ok_iff, vField_bind_eq_ok_iff, pure_eq_ok_iff, decide_eq_true_eq, and_assoc]

@[simp] theorem formatVV_eq_ok_iff (f : Fields) (k : VReg → VReg → Instr) (i : Instr) :
    formatVV f k = .ok i ↔
      i = k (vReg f.a) (vReg f.b) ∧ f.b &&& 8#4 = 0 ∧ f.a &&& 8#4 = 0 ∧ f.c = 0 ∧ f.d = 0 ∧ f.i8 = 0 := by
  simp only [formatVV, unused_bind_eq_ok_iff, vField_bind_eq_ok_iff, pure_eq_ok_iff, decide_eq_true_eq, and_assoc]

@[simp] theorem formatVR_eq_ok_iff (f : Fields) (k : VReg → XReg → Instr) (i : Instr) :
    formatVR f k = .ok i ↔ i = k (vReg f.a) (xField f.c) ∧ f.a &&& 8#4 = 0 ∧ f.b = 0 ∧ f.d = 0 ∧ f.i8 = 0 := by
  simp only [formatVR, unused_bind_eq_ok_iff, vField_bind_eq_ok_iff, pure_eq_ok_iff, decide_eq_true_eq, and_assoc]

@[simp] theorem formatVVR_eq_ok_iff (f : Fields) (k : VReg → VReg → XReg → Instr) (i : Instr) :
    formatVVR f k = .ok i ↔
      i = k (vReg f.a) (vReg f.b) (xField f.c) ∧ f.b &&& 8#4 = 0 ∧ f.a &&& 8#4 = 0 ∧ f.d = 0 ∧ f.i8 = 0 := by
  simp only [formatVVR, unused_bind_eq_ok_iff, vField_bind_eq_ok_iff, pure_eq_ok_iff, decide_eq_true_eq, and_assoc]

@[simp] theorem formatVVV_eq_ok_iff (f : Fields) (k : VReg → VReg → VReg → Instr) (i : Instr) :
    formatVVV f k = .ok i ↔
      i = k (vReg f.a) (vReg f.b) (vReg f.c) ∧
        f.c &&& 8#4 = 0 ∧ f.b &&& 8#4 = 0 ∧ f.a &&& 8#4 = 0 ∧ f.d = 0 ∧ f.i8 = 0 := by
  simp only [formatVVV, unused_bind_eq_ok_iff, vField_bind_eq_ok_iff, pure_eq_ok_iff, decide_eq_true_eq, and_assoc]

@[simp] theorem formatVVVV_eq_ok_iff (f : Fields) (k : VReg → VReg → VReg → VReg → Instr) (i : Instr) :
    formatVVVV f k = .ok i ↔
      i = k (vReg f.a) (vReg f.b) (vReg f.c) (vReg f.d) ∧
        f.d &&& 8#4 = 0 ∧ f.c &&& 8#4 = 0 ∧ f.b &&& 8#4 = 0 ∧ f.a &&& 8#4 = 0 ∧ f.i8 = 0 := by
  simp only [formatVVVV, unused_bind_eq_ok_iff, vField_bind_eq_ok_iff, pure_eq_ok_iff, decide_eq_true_eq, and_assoc]

@[simp] theorem formatVVRVE_eq_ok_iff (f : Fields) (k : VReg → VReg → XReg → VReg → Instr) (i : Instr) :
    formatVVRVE f k = .ok i ↔
      i = k (vReg f.a) (vReg f.b) (xField f.c) (vReg f.d) ∧ f.d &&& 8#4 = 0 ∧ f.b &&& 8#4 = 0 ∧ f.a &&& 8#4 = 0 := by
  simp only [formatVVRVE, vField_bind_eq_ok_iff, pure_eq_ok_iff, and_assoc]

/-- Opcode 0x47 is two rows, told apart by the erasure tag (R84). -/
@[simp] theorem decodeRsdec_eq_ok_iff (f : Fields) (i : Instr) :
    decodeRsdec f = .ok i ↔
      (formatVVR f .rsdec = .ok i ∧ f.i8 = 0) ∨ (formatVVRVE f .rsdece = .ok i ∧ f.i8 = 1) := by
  unfold decodeRsdec
  split <;> simp_all

/-! ### The opcode map undoes the encoder, and the encoder the opcode map -/

/-- The opcode map on the fields of a command is the command. -/
theorem decodeFields_fieldsOf (i : Instr) : decodeFields (fieldsOf i) = .ok i :=
  match i with
  | .nop => Laws.DecodeFields.nop | .init => Laws.DecodeFields.init | .csrr .. => Laws.DecodeFields.csrr ..
  | .csrw .. => Laws.DecodeFields.csrw .. | .rd .. => Laws.DecodeFields.rd .. | .li .. => Laws.DecodeFields.li ..
  | .lih .. => Laws.DecodeFields.lih .. | .mov .. => Laws.DecodeFields.mov ..
  | .tblrd .. => Laws.DecodeFields.tblrd ..
  | .gfadd .. => Laws.DecodeFields.gfadd .. | .gfmul .. => Laws.DecodeFields.gfmul ..
  | .gfinv .. => Laws.DecodeFields.gfinv .. | .gfpow .. => Laws.DecodeFields.gfpow ..
  | .gfdiv .. => Laws.DecodeFields.gfdiv ..
  | .vclr .. => Laws.DecodeFields.vclr .. | .vpushi .. => Laws.DecodeFields.vpushi ..
  | .vpush .. => Laws.DecodeFields.vpush .. | .vget .. => Laws.DecodeFields.vget ..
  | .vlen .. => Laws.DecodeFields.vlen .. | .vmov .. => Laws.DecodeFields.vmov ..
  | .vrev .. => Laws.DecodeFields.vrev .. | .vset .. => Laws.DecodeFields.vset ..
  | .peval .. => Laws.DecodeFields.peval .. | .pmul .. => Laws.DecodeFields.pmul ..
  | .pdivmod .. => Laws.DecodeFields.pdivmod .. | .ptrim .. => Laws.DecodeFields.ptrim ..
  | .rsgen .. => Laws.DecodeFields.rsgen .. | .rsenc .. => Laws.DecodeFields.rsenc ..
  | .rssyn .. => Laws.DecodeFields.rssyn .. | .rsloc .. => Laws.DecodeFields.rsloc ..
  | .rseval .. => Laws.DecodeFields.rseval .. | .rschien .. => Laws.DecodeFields.rschien ..
  | .rsforn .. => Laws.DecodeFields.rsforn .. | .rsdec .. => Laws.DecodeFields.rsdec ..
  | .rsdece .. => Laws.DecodeFields.rsdece ..
  | .crcinit => Laws.DecodeFields.crcinit | .crcrst => Laws.DecodeFields.crcrst
  | .crcupd .. => Laws.DecodeFields.crcupd .. | .crcfin .. => Laws.DecodeFields.crcfin ..
  | .crc .. => Laws.DecodeFields.crc ..
  | .lfsrseed .. => Laws.DecodeFields.lfsrseed .. | .lfsrstep .. => Laws.DecodeFields.lfsrstep ..
  | .lfsrn .. => Laws.DecodeFields.lfsrn ..

/-- The three fields that `I16` overlaps, taken out of it again (R82). -/
@[simp] theorem i16_fields (c d : BitVec 4) (i8 : Byte) :
    (c ++ d ++ i8).extractLsb' 12 4 = c ∧ (c ++ d ++ i8).extractLsb' 8 4 = d ∧
      (c ++ d ++ i8).extractLsb' 0 8 = i8 := by
  refine ⟨?_, ?_, ?_⟩ <;> ext i hi <;>
    simp only [BitVec.getElem_extractLsb', BitVec.getLsbD_append] <;> grind

theorem fieldsOf_of_decodeRsdec {f : Fields} {i : Instr} (hop : f.op = 0x47) (h : decodeRsdec f = .ok i) :
    fieldsOf i = f := by
  obtain ⟨op, a, b, c, d, i8⟩ := f
  rw [decodeRsdec_eq_ok_iff, formatVVR_eq_ok_iff, formatVVRVE_eq_ok_iff] at h
  obtain ⟨⟨rfl, h⟩, htag⟩ | ⟨⟨rfl, h⟩, htag⟩ := h
  · simp_all [fieldsOf, vBits_vReg]
  · simp_all [fieldsOf, vBits_vReg]

/-- The opcode map drops no field: what a command does not use is 0, and its operands fill the rest. -/
theorem fieldsOf_of_decodeFields {f : Fields} {i : Instr} (h : decodeFields f = .ok i) : fieldsOf i = f := by
  obtain ⟨op, a, b, c, d, i8⟩ := f
  unfold decodeFields at h
  split at h
  case h_34 hop => exact fieldsOf_of_decodeRsdec hop h
  case h_43 => cases h
  all_goals
    simp at h
    obtain ⟨rfl, h⟩ := h
    simp_all [fieldsOf, vBits_vReg, Fields.i16]

/-- Settles O1: the fields survive the word, and the opcode map on a command's fields is the command. -/
theorem decodeOfEncodeIsIdentity : Obligations.DecodeOfEncodeIsIdentity := by
  intro i
  rw [decode, encode, unpack_pack]
  exact decodeFields_fieldsOf i

/-- Settles O2: a decoded word's fields are its command's fields, and the fields cover the word. -/
theorem encodeOfDecodeIsIdentity : Obligations.EncodeOfDecodeIsIdentity := by
  intro w i h
  rw [encode, fieldsOf_of_decodeFields h, pack_unpack]

/-- Settles O4: the decoder evaluates on each of the ten words. -/
theorem workedExampleWordsDecode : Obligations.WorkedExampleWordsDecode :=
  ⟨rfl, rfl, rfl, rfl, rfl, rfl, rfl, rfl, rfl, rfl⟩

end Sys2Proof

namespace Sys2Proof

/-! ### The rows of the opcode map, field by field -/

/-- The bits of the fields that a mask keeps. -/
def Fields.mask (f m : Fields) : Fields where
  op := f.op &&& m.op
  a := f.a &&& m.a
  b := f.b &&& m.b
  c := f.c &&& m.c
  d := f.d &&& m.d
  i8 := f.i8 &&& m.i8

theorem unpack_and (w m : Word) : unpack (w &&& m) = (unpack w).mask (unpack m) := by
  simp only [unpack, Fields.mask, BitVec.extractLsb'_and]

/-- A word matches a row exactly when its fields do. -/
theorem and_eq_iff_mask_eq (w m p : Word) : w &&& m = p ↔ (unpack w).mask (unpack m) = unpack p := by
  rw [← unpack_and, unpack_inj]

/-- A full mask, in the form the simplifier brings its literal to. -/
@[simp] theorem nibble_and_ones (n : BitVec 4) : n &&& 15#4 = n := BitVec.and_allOnes

/-- A full mask, in the form the simplifier brings its literal to. -/
@[simp] theorem byte_and_ones (n : Byte) : n &&& 255#8 = n := BitVec.and_allOnes

/-- The row of a command: the rows stand in the order of the constructors. -/
def rowOf (i : Instr) : OpcodeRow := opcodeRows.getD i.ctorIdx ⟨"", 0, 0⟩

theorem mnemonic_rowOf (i : Instr) : (rowOf i).mnemonic = mnemonic i := by
  cases i <;> rfl

theorem rowOf_mem (i : Instr) : rowOf i ∈ opcodeRows := by
  have h : i.ctorIdx < opcodeRows.length := by cases i <;> exact of_decide_eq_true rfl
  rw [rowOf, List.getD_eq_getElem _ _ h]
  exact List.getElem_mem h

/-- A command's fields match its row: the mask keeps the opcode, the unused fields and bit 3 of a vector field. -/
theorem fieldsOf_matches_rowOf (i : Instr) :
    (fieldsOf i).mask (unpack (rowOf i).mask) = unpack (rowOf i).pattern := by
  generalize hrow : rowOf i = row
  cases i <;> conv at hrow => lhs; whnf
  all_goals simp [← hrow, fieldsOf, Fields.mask, unpack]

/-- Fields that match a row pass the checks of the row's format, which are on the bits that the mask keeps. -/
theorem decodeFields_of_matches (f : Fields) : ∀ row ∈ opcodeRows, f.mask (unpack row.mask) = unpack row.pattern →
    ∃ i, decodeFields f = .ok i ∧ mnemonic i = row.mnemonic := by
  intro row hrow h
  obtain ⟨op, a, b, c, d, i8⟩ := f
  simp only [opcodeRows, systemRows, galoisRows, vectorRows, polynomialRows, reedSolomonRows, crcRows, lfsrRows,
    List.cons_append, List.nil_append] at hrow
  fin_cases hrow
  all_goals
    simp [unpack, Fields.mask] at h
    obtain ⟨rfl, h⟩ := h
    dsimp only [decodeFields]
    simp [h, mnemonic]

/-- Settles O3: a decoded word is its command's encoding, which matches the command's row, and a word whose fields match
a row decodes. -/
theorem decodeFollowsOpcodeMap : Obligations.DecodeFollowsOpcodeMap := by
  refine ⟨fun w i h => ⟨rowOf i, rowOf_mem i, mnemonic_rowOf i, ?_⟩, fun w row hrow h => ?_⟩
  · rw [← encodeOfDecodeIsIdentity w i h, and_eq_iff_mask_eq, encode, unpack_pack]
    exact fieldsOf_matches_rowOf i
  · exact decodeFields_of_matches _ row hrow ((and_eq_iff_mask_eq ..).1 h)

end Sys2Proof

namespace Sys2Proof.Machine

/-! ### What a command word answers -/

/-- A success before it completes has taken nothing from the command port. -/
theorem Effect.inputs_eq {s d : State} {i : Instr} {data : Word} (he : Effect s i d data) : d.inputs = s.inputs := by
  cases he <;> rfl

/-- A success of any command but RD answers no data (30_encoding.md R92). -/
theorem Effect.data_eq {s d : State} {i : Instr} {data : Word} (he : Effect s i d data)
    (hi : ∀ rs, i ≠ .rd rs) : data = 0 := by
  cases he with
  | rd rs => exact absurd rfl (hi rs)
  | _ => rfl

/-- RD answers the register it names (R92). -/
theorem Effect.data_of_rd {s d : State} {rs : XReg} {data : Word} (he : Effect s (.rd rs) d data) : data = s.x[rs] := by
  cases he with
  | rd => rfl
  | scalar _ _ h | vectorScalar _ _ _ _ _ h => simp [scalarDests] at h
  | vector _ _ h | twoVectors _ _ _ _ h => simp [vectorDests] at h

/-- The one response to a command word: its code is what `LAST` shows, and it has data only after an RD (R92). -/
theorem execWord_response {w : Word} {s t : State} (h : execWord w s = .next t) :
    ∃ r, t.responses = s.responses ++ [r] ∧ r.code = t.status.last ∧
      (∀ rs, decode w = .ok (.rd rs) → r.code = .ok → r.data = s.x[rs]) ∧
      ((∀ rs, decode w ≠ .ok (.rd rs)) → r.data = 0) ∧
      (r.code ≠ .ok → r.data = 0) := by
  obtain ⟨f, -, rfl⟩ | ⟨i, d, data, hi, he, rfl⟩ := execWord_cases h
  · exact ⟨⟨.failure f, 0⟩, by simp⟩
  · refine ⟨⟨.ok, data⟩, by rw [complete_responses, he.responses_eq], rfl, fun rs hrs _ => ?_, fun hrs => ?_, nofun⟩
    · obtain rfl : i = .rd rs := Except.ok.inj (hi.symm.trans hrs)
      exact he.data_of_rd
    · exact he.data_eq fun rs hr => hrs rs (hr ▸ hi)

/-- Settles O15, by the cases of a command's effect. -/
theorem responseDataComesOnlyFromRd : Obligations.ResponseDataComesOnlyFromRd := by
  intro s t w rest hin h
  rw [step_command hin] at h
  exact (execWord_response h :)

/-! ### Every input is taken and every command word answered -/

theorem execWord_inputs {w : Word} {s t : State} (h : execWord w s = .next t) : t.inputs = s.inputs := by
  obtain ⟨f, -, rfl⟩ | ⟨i, d, data, -, he, rfl⟩ := execWord_cases h
  · rfl
  · exact he.inputs_eq

/-- A step takes the first input, and answers it with one response when it is a command word. -/
theorem step_takes_input {s : State} {e : Input} {rest : List Input} (hin : s.inputs = e :: rest) :
    ∃ t new, step s = .next t ∧ t.inputs = rest ∧ t.responses = s.responses ++ new ∧
      new.length = ([e].filter Input.isCommand).length := by
  obtain ⟨t, ht⟩ := step_answers s
  cases e with
  | reset =>
    rw [step_reset hin] at ht
    cases ht
    exact ⟨_, [], step_reset hin, rfl, by simp [applyReset], rfl⟩
  | command w =>
    have hw := (step_command hin).symm.trans ht
    obtain ⟨r, hr, -⟩ := execWord_answers_last hw
    exact ⟨t, [r], ht, execWord_inputs hw, hr, rfl⟩

/-- A run of one step and `n` more. -/
theorem run_succ {s t : State} (h : step s = .next t) (n : Nat) :
    Sys2Proof.core.run (n + 1) s = Sys2Proof.core.run n t := by
  have hcore : Sys2Proof.core.step s = .next t := h
  simp only [Host.Core.run, hcore]

/-- As many steps as there are inputs take them all and answer each command word once (R80). -/
theorem run_takes_inputs : ∀ (l : List Input) (s : State), s.inputs = l →
    ∃ t new, Sys2Proof.core.run l.length s = .next t ∧ t.inputs = [] ∧ t.responses = s.responses ++ new ∧
      new.length = (l.filter Input.isCommand).length := by
  intro l
  induction l with
  | nil => exact fun s hs => ⟨s, [], rfl, hs, by simp, rfl⟩
  | cons e rest ih =>
    intro s hs
    obtain ⟨t, new, hstep, hin, hresp, hlen⟩ := step_takes_input hs
    obtain ⟨u, more, hrun, hin', hresp', hlen'⟩ := ih t hin
    refine ⟨u, new ++ more, ?_, hin', ?_, ?_⟩
    · rw [List.length_cons, run_succ hstep, hrun]
    · rw [hresp', hresp, List.append_assoc]
    · rw [List.length_append, hlen, hlen', ← List.length_append, ← List.filter_append, List.singleton_append]

/-- Settles O9, by induction on the inputs presented. -/
theorem runAnswersEveryCommand : Obligations.RunAnswersEveryCommand :=
  fun s => run_takes_inputs s.inputs s rfl

/-! ### The word decides what runs -/

theorem execWord_of_decode {w : Word} {i : Instr} (h : decode w = .ok i) (s : State) : execWord w s = exec i s := by
  rw [execWord, h]

/-- A word that matches no row is no command (R86). -/
theorem execWord_of_unmatched {w : Word} (hw : ∀ row ∈ opcodeRows, w &&& row.mask ≠ row.pattern) (s : State) :
    execWord w s = .next (s.complete (.failure .illegalCommand) 0) := by
  cases h : decode w with
  | error e => rw [execWord, h]; rfl
  | ok i =>
    obtain ⟨row, hrow, -, hmatch⟩ := decodeFollowsOpcodeMap.1 w i h
    exact absurd hmatch (hw row hrow)

/-- Settles O11: a word that matches no row does not decode. -/
theorem unmatchedWordIsIllegal : Obligations.UnmatchedWordIsIllegal := by
  intro s w rest hin hw
  exact ⟨_, (step_command hin).trans (execWord_of_unmatched hw _), failedWith_complete _ _⟩

/-- Settles O5; the second clause decodes an encoded command, which is O1. -/
theorem stepRunsTheCommandPresented : Obligations.StepRunsTheCommandPresented := by
  refine ⟨fun s w rest i hin hw => ?_, fun s i => ?_, fun s => step_nil⟩
  · rw [step_command hin, execWord_of_decode hw]
  · have hword : BitVec.ofNat 32 ((encode i).toNat % 2 ^ 32) = encode i := by
      rw [Nat.mod_eq_of_lt (encode i).isLt, BitVec.ofNat_toNat, BitVec.setWidth_eq]
    have hin : (s.withFetchWord 32 (encode i).toNat).inputs = .command (encode i) :: s.inputs := by
      rw [State.withFetchWord, hword]
    rw [step_command hin]
    exact execWord_of_decode (decodeOfEncodeIsIdentity i) s

end Sys2Proof.Machine

namespace Sys2Proof.Machine

/-! ### The four conditions on the command word (30_encoding.md R87) -/

theorem namedCsr_undefined {csr : Byte} (h : csrOfNumber csr = none) : namedCsr csr = .error .illegalCommand := by
  rw [namedCsr, h]

theorem namedCsr_of_some {csr : Byte} {c : Csr} (h : csrOfNumber csr = some c) : namedCsr csr = .ok c := by
  rw [namedCsr, h]

theorem csrOfNumber_undefined {csr : Byte}
    (h : csr ∉ [0x00#8, 0x01#8, 0x02#8, 0x10#8, 0x11#8, 0x12#8, 0x13#8, 0x14#8, 0x20#8, 0x21#8, 0x22#8]) :
    csrOfNumber csr = none := by
  simp only [List.mem_cons, List.not_mem_nil, or_false, not_or] at h
  simp [csrOfNumber, h]

theorem tableOfSelector_undefined {sel : Byte} (h : 2 < sel.toNat) : tableOfSelector sel = none := by
  unfold tableOfSelector
  split
  · exact absurd h (by decide)
  · exact absurd h (by decide)
  · exact absurd h (by decide)
  · rfl

/-- An ill-formed command fails its first check, in every state. -/
theorem exec_of_not_wellFormed {i : Instr} (h : wellFormed i = false) (s : State) :
    exec i s = .next (s.complete (.failure .illegalCommand) 0) := by
  cases i <;> simp only [wellFormed, Bool.true_eq_false] at h
  case csrr rd csr =>
    rw [Option.isSome_eq_false_iff, Option.isNone_iff_eq_none] at h
    simp only [exec, execCsrr, namedCsr_undefined h, error_bind, runCommand_error]
  case csrw csr rs =>
    simp only [exec, execCsrw]
    cases hc : csrOfNumber csr with
    | none => simp only [namedCsr_undefined hc, error_bind, runCommand_error]
    | some c =>
      have hnot : ¬ csrWritable c = true := by simpa [hc] using h
      simp only [namedCsr_of_some hc, ok_bind, runCommand_require_neg s hnot]
  case tblrd rd sel rs =>
    rw [Option.isSome_eq_false_iff, Option.isNone_iff_eq_none] at h
    simp only [exec, execTblrd, h, runCommand_error]
  case pdivmod vq vr vs vt =>
    exact runCommand_require_neg s (by simpa using h) _ _

theorem raises_writeCsr_of_writable (s : State) (w : Word) {c : Csr} (h : csrWritable c = true) :
    Raises [.notInitialized, .invalidParameters] (writeCsr s w c) := by
  cases c with
  | fieldPoly | fieldGen | lfsrState => cases h
  | _ => simp [writeCsr]

/-- The read of a table that a selector names raises no `IllegalCommand`. -/
theorem raises_readTable_without_illegal (s : State) (i : Nat) (c : Table) :
    Raises [.notInitialized, .invalidParameters] (readTable s i c) := by
  cases c <;> simp [readTable]

/-- A well-formed command does not fail with `IllegalCommand`: only the commands of R87 raise it, and only by the checks
that being well-formed passes. -/
theorem not_illegal_of_wellFormed {i : Instr} {s t : State} (hi : wellFormed i = true) (h : exec i s = .next t) :
    t.status.last ≠ .failure .illegalCommand := by
  intro hf
  suffices hmem : Failure.illegalCommand ∈ [Failure.notInitialized, .invalidParameters] from absurd hmem (by decide)
  have hraise := exec_failure_mem_raisable h hf
  cases i <;> simp only [raisable, wellFormed] at hraise hi
  case csrr rd csr =>
    obtain ⟨c, hc⟩ := Option.isSome_iff_exists.1 hi
    refine failure_mem_of_raises ?_ h hf
    simp only [namedCsr_of_some hc, ok_bind, raises_done]
  case csrw csr rs =>
    obtain ⟨c, hc, hw⟩ := (Option.any_eq_true _ _).1 hi
    refine failure_mem_of_raises ?_ h hf
    simpa only [namedCsr_of_some hc, ok_bind, require_pos hw] using raises_writeCsr_of_writable _ _ hw
  case tblrd rd sel rs =>
    obtain ⟨c, hc⟩ := Option.isSome_iff_exists.1 hi
    refine failure_mem_of_raises ?_ h hf
    simp only [hc]
    exact (raises_readTable_without_illegal _ _ _).bind fun _ => raises_done _ _
  case pdivmod vq vr vs vt =>
    refine failure_mem_of_raises ?_ h hf
    have hne : vq ≠ vr := by simpa using hi
    simpa [hne] using fun _ _ _ => ((raises_polyDivmod _ _ _).mono (by simp)).bind fun _ => raises_done _ _
  all_goals simp at hraise

/-- Settles O18, from the two lemmas about commands that are well formed and that are not. -/
theorem illegalExactlyWhenIllFormed : Obligations.IllegalExactlyWhenIllFormed := by
  intro i s t h
  cases hi : wellFormed i with
  | true => simpa using not_illegal_of_wellFormed hi h
  | false =>
    rw [exec_of_not_wellFormed hi] at h
    cases h
    simp

/-- Settles O17: four clauses are about ill-formed commands, the last is LFSRN's first check. -/
theorem wordConditionsGiveIllegalCommand : Obligations.WordConditionsGiveIllegalCommand := by
  have illegal {i : Instr} (s : State) (h : wellFormed i = false) :
      ∃ t, exec i s = .next t ∧ FailedWith s t .illegalCommand :=
    ⟨_, exec_of_not_wellFormed h s, failedWith_complete s _⟩
  refine ⟨fun s v vs vt => illegal s (by simp [wellFormed]), fun s csr r hcsr => ?_, fun s csr rs hcsr => illegal s ?_,
    fun s rd rs sel hsel => illegal s ?_, fun s rd count hcount => ?_⟩
  · have hnone := csrOfNumber_undefined hcsr
    exact ⟨illegal s (by simp [wellFormed, hnone]), illegal s (by simp [wellFormed, hnone])⟩
  · revert csr; simp [wellFormed, csrOfNumber, csrWritable]
  · rw [wellFormed, tableOfSelector_undefined hsel]; rfl
  · exact ⟨_, runCommand_require_neg s hcount _ _, failedWith_complete s _⟩

end Sys2Proof.Machine

namespace Sys2Proof.Machine

/-! ### The powers of the generator (41_gf_arithmetic.md R121) -/

theorem gfDouble_zero (poly : BitVec 9) : gfDouble poly 0 = 0 := rfl

theorem gfMulxLoop_zero (poly : BitVec 9) (b : Byte) (n : Nat) (r : Byte) : gfMulxLoop poly b n 0 r = r := by
  induction n generalizing r with
  | zero => rfl
  | succ n ih => rw [gfMulxLoop, gfDouble_zero, ih]; simp

theorem gfMulx_zero_left (poly : BitVec 9) (b : Byte) : gfMulx poly 0 b = 0 :=
  gfMulxLoop_zero poly b 8 0

/-- Once a power is 0, all later powers are. -/
theorem gfPowx_eq_zero_of_le {poly : BitVec 9} {a : Byte} {i j : Nat} (hi : gfPowx poly a i = 0) (hij : i ≤ j) :
    gfPowx poly a j = 0 := by
  induction j, hij using Nat.le_induction with
  | base => exact hi
  | succ j _ ih => rw [gfPowx, ih, gfMulx_zero_left]

/-- The walk of the table build lists the powers of the generator. -/
theorem gfPowers_one_eq_map (poly : BitVec 9) (gen : Byte) (n : Nat) :
    gfPowers poly gen n 1 = (List.range n).map (gfPowx poly gen) := by
  refine List.ext_getElem (by simp) fun i hi _ => ?_
  rw [List.getElem_map, List.getElem_range, ← getD_gfPowers_one poly gen n i (by simpa using hi),
    List.getD_eq_getElem _ _ hi]

/-- No power of the generator is 0: the last, `α^255`, is 1. -/
theorem State.GeneratorOk.alpha_ne_zero {s : State} (h : s.GeneratorOk) {i : Nat} (hi : i ≤ 255) : s.alpha i ≠ 0 := by
  obtain ⟨-, -, hlast⟩ := h
  intro h0
  rw [State.alpha, gfPowx_eq_zero_of_le h0 hi] at hlast
  exact absurd hlast (by decide)

theorem byte_ne_zero_iff (a : Byte) : a ≠ 0 ↔ 1 ≤ a.toNat ∧ a.toNat < 256 := by
  have hlt : a.toNat < 256 := a.isLt
  have hzero : (0 : Byte).toNat = 0 := rfl
  rw [ne_eq, ← BitVec.toNat_inj, hzero]
  omega

/-- 255 distinct nonzero bytes are all the nonzero bytes (40_system_and_move.md R102). -/
theorem State.GeneratorOk.exists_alpha_eq {s : State} (h : s.GeneratorOk) {a : Byte} (ha : a ≠ 0) :
    ∃ i < 255, s.alpha i = a := by
  have hmaps : Set.MapsTo (fun i => (s.alpha i).toNat) (Finset.range 255) (Finset.Ico 1 256) := fun i hi =>
    Finset.mem_coe.2 (Finset.mem_Ico.2 ((byte_ne_zero_iff _).1 (h.alpha_ne_zero (Finset.mem_range.1 hi).le)))
  have hinj : Set.InjOn (fun i => (s.alpha i).toNat) (Finset.range 255) := fun i hi j hj e =>
    h.2.1 i (Finset.mem_range.1 hi) j (Finset.mem_range.1 hj) (BitVec.eq_of_toNat_eq e)
  have hmem : a.toNat ∈ Finset.Ico 1 256 := Finset.mem_Ico.2 ((byte_ne_zero_iff a).1 ha)
  obtain ⟨i, hi, e⟩ := Finset.surjOn_of_injOn_of_card_le _ hmaps hinj (by simp) hmem
  exact ⟨i, Finset.mem_range.1 hi, BitVec.eq_of_toNat_eq e⟩

/-- The walk meets the nonzero bytes, each once. -/
theorem State.GeneratorOk.mem_gfPowers {s : State} (h : s.GeneratorOk) {a : Byte} :
    a ∈ gfPowers s.fieldPoly s.fieldGen 255 1 ↔ a ≠ 0 := by
  rw [gfPowers_one_eq_map, List.mem_map]
  constructor
  · rintro ⟨i, hi, rfl⟩
    exact h.alpha_ne_zero (List.mem_range.1 hi).le
  · intro ha
    obtain ⟨i, hi, e⟩ := h.exists_alpha_eq ha
    exact ⟨i, List.mem_range.2 hi, e⟩

theorem State.GeneratorOk.nodup_gfPowers {s : State} (h : s.GeneratorOk) :
    (gfPowers s.fieldPoly s.fieldGen 255 1).Nodup := by
  rw [gfPowers_one_eq_map]
  exact List.nodup_range.map_on fun i hi j hj e => h.2.1 i (List.mem_range.1 hi) j (List.mem_range.1 hj) e

/-! ### The startup assertion -/

/-- A list that repeats no byte, and none that was marked before, marks without a clash. -/
theorem exists_markOnce {l : List Byte} (hl : l.Nodup) {seen : Nat} (hseen : ∀ v ∈ l, seen.testBit v.toNat = false) :
    ∃ m, markOnce l seen = some m := by
  induction l generalizing seen with
  | nil => exact ⟨seen, rfl⟩
  | cons a l ih =>
    obtain ⟨ha, hl⟩ := List.nodup_cons.1 hl
    rw [markOnce, hseen a (by simp)]
    refine ih hl fun v hv => ?_
    have hne : a.toNat ≠ v.toNat := fun e => ha (BitVec.eq_of_toNat_eq e ▸ hv)
    rw [Nat.testBit_or, hseen v (by simp [hv]), Nat.one_shiftLeft, Nat.testBit_two_pow, Bool.false_or]
    exact decide_eq_false hne

/-- The marks of the walk under a generator that passes the assertion: bits 1 to 255. -/
theorem State.GeneratorOk.markOnce_gfPowers {s : State} (h : s.GeneratorOk) :
    markOnce (gfPowers s.fieldPoly s.fieldGen 255 1) 0 = some (2 ^ 256 - 2) := by
  obtain ⟨m, hm⟩ := exists_markOnce h.nodup_gfPowers (seen := 0) (by simp)
  obtain ⟨-, -, hbits⟩ := markOnce_spec _ _ _ hm
  rw [hm, Option.some_inj]
  refine Nat.eq_of_testBit_eq fun k => ?_
  have hbyte : (∃ v ∈ gfPowers s.fieldPoly s.fieldGen 255 1, v.toNat = k) ↔ 1 ≤ k ∧ k - 1 < 255 := by
    simp only [h.mem_gfPowers, byte_ne_zero_iff]
    constructor
    · rintro ⟨v, hv, rfl⟩
      omega
    · intro hk
      have hval : (BitVec.ofNat 8 k).toNat = k := Nat.mod_eq_of_lt (by omega)
      exact ⟨BitVec.ofNat 8 k, by omega, hval⟩
  have hmask : (2 ^ 256 - 2).testBit k = decide (1 ≤ k ∧ k - 1 < 255) := by
    rw [show 2 ^ 256 - 2 = (2 ^ 255 - 1) <<< 1 by decide, Nat.testBit_shiftLeft, Nat.testBit_two_pow_sub_one,
      Bool.decide_and]
  rw [hbits, hmask, Nat.zero_testBit, Bool.false_or, decide_eq_decide]
  exact hbyte

/-- The test that the table build makes is the startup assertion of the definition. -/
theorem gfTablesOk_iff_generatorOk (s : State) : gfTablesOk s.fieldPoly s.fieldGen = true ↔ s.GeneratorOk := by
  refine ⟨generatorOk_of_gfTablesOk, fun h => ?_⟩
  have ⟨hdeg, _, hlast⟩ := h
  rw [gfTablesOk, h.markOnce_gfPowers, getD_gfPowers_one _ _ _ _ (by omega), hdeg]
  simpa [State.alpha] using hlast

/-! ### The tables by their meaning -/

/-- The place of a byte of the list: it is in range, and the byte stands there. -/
theorem placeOf_spec {l : List Byte} {v : Byte} (h : v ∈ l) :
    placeOf v.toNat l < l.length ∧ l.getD (placeOf v.toNat l) 0 = v := by
  induction l with
  | nil => cases h
  | cons a l ih =>
    by_cases hav : a = v
    · simp [placeOf, hav]
    · have hne : a.toNat ≠ v.toNat := fun e => hav (BitVec.eq_of_toNat_eq e)
      have hl : v ∈ l := (List.mem_cons.1 h).resolve_left (Ne.symm hav)
      simpa [placeOf, hne] using ih hl

/-- `ALOG[i] = α^i`, `ALOG[255] = α^255` included (10_state.md R51). -/
theorem alogAt_gfBuildTables (s : State) {i : Nat} (hi : i < 256) :
    alogAt (gfBuildTables s.fieldPoly s.fieldGen) i = s.alpha i := by
  simp only [alogAt, hi, dif_pos, gfBuildTables, gfBuildAlog, tabulate_getElem]
  exact getD_gfPowers_one _ _ _ _ hi

/-- `LOG[a]` of a nonzero byte is an exponent below 255 whose power is `a` (10_state.md R50). -/
theorem State.GeneratorOk.logAt_gfBuildTables {s : State} (h : s.GeneratorOk) {a : Byte} (ha : a ≠ 0) :
    logAt (gfBuildTables s.fieldPoly s.fieldGen) a < 255 ∧
      s.alpha (logAt (gfBuildTables s.fieldPoly s.fieldGen) a) = a := by
  obtain ⟨hlt, hval⟩ := placeOf_spec (h.mem_gfPowers.2 ha)
  rw [length_gfPowers] at hlt
  have hne : a.toNat ≠ 0 := Nat.ne_of_gt ((byte_ne_zero_iff a).1 ha).1
  have hlog : logAt (gfBuildTables s.fieldPoly s.fieldGen) a =
      placeOf a.toNat (gfPowers s.fieldPoly s.fieldGen 255 1) := by
    simp only [logAt, gfBuildTables, gfBuildLog, tabulate_getElem, if_neg hne, BitVec.toNat_ofNat]
    omega
  rw [hlog]
  exact ⟨hlt, (getD_gfPowers_one _ _ _ _ hlt).symm.trans hval⟩

/-- `LOG` inverts the powers of the generator (10_state.md R50). -/
theorem State.GeneratorOk.logAt_alpha {s : State} (h : s.GeneratorOk) {i : Nat} (hi : i < 255) :
    logAt (gfBuildTables s.fieldPoly s.fieldGen) (s.alpha i) = i := by
  obtain ⟨hlt, hval⟩ := h.logAt_gfBuildTables (h.alpha_ne_zero hi.le)
  exact h.2.1 _ hlt i hi hval

/-- Settles O27: the test of INIT is the startup assertion, and the tables are what their meaning says. -/
theorem initBuildsFieldTables : Obligations.InitBuildsFieldTables := by
  refine ⟨fun s h => ?_, fun s h => ?_⟩
  · refine ⟨_, execInit_ok ((gfTablesOk_iff_generatorOk s).2 h), okFrom_complete _ _, fun i => ?_,
      fun i hi => h.logAt_alpha hi, fun a ha => (h.logAt_gfBuildTables ha).2⟩
    have halog := alogAt_gfBuildTables s i.isLt
    rwa [alogAt, dif_pos i.isLt] at halog
  · have hfail : gfTablesOk s.fieldPoly s.fieldGen = false :=
      Bool.eq_false_iff.2 (mt (gfTablesOk_iff_generatorOk s).1 h)
    exact ⟨_, execInit_fails hfail, failedWith_complete s _⟩

/-- A generator with a power 1 between `α^0` and `α^255` fails the assertion. -/
theorem not_generatorOk_of_alpha_eq_one {s : State} {i : Nat} (hpos : 0 < i) (hi : i < 255) (h1 : s.alpha i = 1) :
    ¬ s.GeneratorOk := fun h =>
  Nat.ne_of_gt hpos (h.2.1 i hi 0 (by omega) h1)

/-- Settles O28: the walks of the two pairs that pass are run; modulo 0x11B the power `2^51` is already 1. -/
theorem startupAssertionOnNamedPairs : Obligations.StartupAssertionOnNamedPairs := by
  refine ⟨fun s hs => ?_, fun s hs => initBuildsFieldTables.2 s ?_⟩
  · have hok : gfTablesOk s.fieldPoly s.fieldGen = true := by
      obtain ⟨hp, hg⟩ | ⟨hp, hg⟩ := hs <;> rw [hp, hg] <;> decide +kernel
    exact ⟨_, execInit_ok hok, rfl, rfl⟩
  · obtain ⟨hp, hg⟩ | ⟨hp, hg⟩ := hs
    · exact not_generatorOk_of_alpha_eq_one (i := 51) (by omega) (by omega)
        (by rw [State.alpha, hp, hg]; decide +kernel)
    · exact not_generatorOk_of_alpha_eq_one (i := 1) (by omega) (by omega)
        (by rw [State.alpha, hp, hg]; decide +kernel)

end Sys2Proof.Machine

namespace Sys2Proof.Machine

/-! ### Scalar moves and reads of control registers -/

/-- A command whose only destination is a scalar register. -/
theorem scalarWritten_complete (s : State) (rd : XReg) (w : Word) :
    ScalarWritten s ((s.setX rd w).complete .ok 0) rd w where
  value := setX_read_same s rd w
  others r hr := setX_read_other s rd r w hr
  frame := rfl

/-- The word LIH writes: the immediate above the lower half of the register (40_system_and_move.md R107). -/
theorem toNat_append_lowerHalf (imm : BitVec 16) (w : Word) :
    (imm ++ w.setWidth 16).toNat = imm.toNat * 2 ^ 16 + w.toNat % 2 ^ 16 := by
  rw [BitVec.toNat_append, BitVec.toNat_setWidth, ← Nat.shiftLeft_add_eq_or_of_lt (Nat.mod_lt _ (by positivity)),
    Nat.shiftLeft_eq]

/-- Settles O24: the meanings check nothing, so each runs straight to its completion. -/
theorem scalarMovesComplete : Obligations.ScalarMovesComplete := by
  intro s rd rs imm
  have written := scalarWritten_complete s rd
  exact ⟨⟨_, rfl, okFrom_complete s 0⟩, ⟨_, rfl, okFrom_complete s _⟩,
    ⟨_, _, rfl, written _, BitVec.toNat_setWidth_of_le (by omega)⟩,
    ⟨_, _, rfl, written _, toNat_append_lowerHalf imm _⟩, ⟨_, rfl, written _⟩⟩

theorem csrOfNumber_csrNumber (c : Csr) : csrOfNumber (csrNumber c) = some c := by cases c <;> rfl

/-- CSRR writes what the register reads as (40_system_and_move.md R103). -/
theorem exec_csrr (s : State) (rd : XReg) (c : Csr) :
    exec (.csrr rd (csrNumber c)) s = .next ((s.setX rd (s.readCsr c)).complete .ok 0) := by
  simp only [exec, execCsrr, namedCsr_of_some (csrOfNumber_csrNumber c), ok_bind, runCommand_done]

/-- Bit 0 of `STATUS` is `FRDY` (10_state.md R32). -/
theorem statusWord_frdy (st : Status) : (statusWord st).getLsbD 0 = st.frdy := by
  rw [statusWord, BitVec.getLsbD_append]; simp

/-- Bit 1 of `STATUS` is `CRDY` (10_state.md R32). -/
theorem statusWord_crdy (st : Status) : (statusWord st).getLsbD 1 = st.crdy := by
  rw [statusWord, BitVec.getLsbD_append, BitVec.getLsbD_append]; simp

/-- The reserved bits 3:2 and 31:16 of `STATUS` read as 0 (10_state.md R32). -/
theorem statusWord_reserved (st : Status) :
    (statusWord st).extractLsb' 2 2 = 0 ∧ (statusWord st).extractLsb' 16 16 = 0 := by
  constructor <;> refine BitVec.eq_of_getLsbD_eq fun i hi => ?_
  all_goals
    simp only [statusWord, BitVec.getLsbD_extractLsb', BitVec.getLsbD_append]
    grind

/-- Settles O25: the eleven numbers are those of the eleven registers, whose reads CSRR writes. -/
theorem csrrReadsEveryRegister : Obligations.CsrrReadsEveryRegister := by
  refine ⟨fun s rd p hp => ?_, fun st => ?_⟩
  · obtain ⟨c, -, rfl⟩ : ∃ c ∈ [Csr.status, .fieldPoly, .fieldGen, .crcCfg, .crcPoly, .crcInit, .crcXorout, .crcReg,
        .lfsrCfg, .lfsrTaps, .lfsrState], (csrNumber c, s.readCsr c) = p := List.mem_map.1 hp
    exact ⟨_, exec_csrr s rd c, scalarWritten_complete s rd _⟩
  · obtain ⟨hlow, hhigh⟩ := statusWord_reserved st
    exact ⟨statusWord_frdy st, statusWord_crdy st, hlow, statusWord_last st, statusWord_sticky st, hhigh⟩

/-! ### Writes of control registers -/

/-- CSRW of a register it may name is the write of that register (40_system_and_move.md R104). -/
theorem exec_csrw (s : State) (rs : XReg) {c : Csr} (hc : csrWritable c = true) :
    exec (.csrw (csrNumber c) rs) s = runCommand s (writeCsr s s.x[rs] c) := by
  simp only [exec, execCsrw, namedCsr_of_some (csrOfNumber_csrNumber c), ok_bind, require_pos hc]

theorem exec_csrw_crcCfg (s : State) (rs : XReg) :
    exec (.csrw 0x10 rs) s =
      if s.x[rs] &&& 0xFFFFFCC0#32 = 0 then .next (State.complete (State.clearCrdy { s with crcCfg := s.x[rs] }) .ok 0)
      else .next (s.complete (.failure .invalidParameters) 0) := by
  simp only [← crcCfg_reserved_iff]
  exact (exec_csrw s rs (c := .crcCfg) rfl).trans (runCommand_require s _ _ _)

theorem exec_csrw_crcReg {s : State} (hready : s.status.crdy = true) (rs : XReg) :
    exec (.csrw 0x14 rs) s =
      if s.x[rs].toNat < 2 ^ s.crcWidth then .next (State.complete { s with crcReg := s.x[rs] } .ok 0)
      else .next (s.complete (.failure .invalidParameters) 0) := by
  rw [show (0x14 : Byte) = csrNumber .crcReg from rfl, exec_csrw s rs rfl, writeCsr, require_pos hready, ok_bind]
  exact runCommand_require s _ _ _

theorem exec_csrw_lfsrCfg (s : State) (rs : XReg) :
    exec (.csrw 0x20 rs) s =
      if s.x[rs] &&& 0xFFFFFEC0#32 = 0 then .next (State.complete { s with lfsrCfg := s.x[rs] } .ok 0)
      else .next (s.complete (.failure .invalidParameters) 0) := by
  simp only [← lfsrCfg_reserved_iff]
  exact (exec_csrw s rs (c := .lfsrCfg) rfl).trans (runCommand_require s _ _ _)

/-- Settles O26: three registers check the value, the four others take any. -/
theorem csrwWritesOrRefuses : Obligations.CsrwWritesOrRefuses := by
  intro s rs
  have hcfg := exec_csrw_crcCfg s rs
  have hlfsr := exec_csrw_lfsrCfg s rs
  refine ⟨fun hx => ⟨_, hcfg.trans (if_pos hx), okFrom_complete _ 0⟩,
    fun hx => ⟨_, hcfg.trans (if_neg hx), failedWith_complete s _⟩,
    ⟨_, exec_csrw s rs (c := .crcPoly) rfl, okFrom_complete _ 0⟩,
    ⟨_, exec_csrw s rs (c := .crcInit) rfl, okFrom_complete _ 0⟩,
    ⟨_, exec_csrw s rs (c := .crcXorout) rfl, okFrom_complete _ 0⟩,
    fun hready hx => ⟨_, (exec_csrw_crcReg hready rs).trans (if_pos hx), okFrom_complete _ 0⟩,
    fun hready hx => ⟨_, (exec_csrw_crcReg hready rs).trans (if_neg hx), failedWith_complete s _⟩,
    fun hx => ⟨_, hlfsr.trans (if_pos hx), okFrom_complete _ 0⟩,
    fun hx => ⟨_, hlfsr.trans (if_neg hx), failedWith_complete s _⟩,
    ⟨_, exec_csrw s rs (c := .lfsrTaps) rfl, okFrom_complete _ 0⟩⟩

/-! ### Reads of the tables -/

theorem State.FieldReady.generatorOk {s : State} (h : s.FieldReady) : s.GeneratorOk :=
  (gfTablesOk_iff_generatorOk s).1 (h.1.fieldTables h.2).1

theorem State.FieldReady.tables_eq {s : State} (h : s.FieldReady) :
    s.tables = gfBuildTables s.fieldPoly s.fieldGen :=
  (h.1.fieldTables h.2).2

/-- Ready `ALOG` holds the powers of the generator (10_state.md R51). -/
theorem State.FieldReady.alogAt_eq {s : State} (h : s.FieldReady) {i : Nat} (hi : i < 256) :
    alogAt s.tables i = s.alpha i := by
  rw [h.tables_eq, alogAt_gfBuildTables s hi]

/-- Ready `LOG` holds the logarithms (10_state.md R50). -/
theorem State.FieldReady.logAt_spec {s : State} (h : s.FieldReady) {a : Byte} (ha : a ≠ 0) :
    logAt s.tables a < 255 ∧ s.alpha (logAt s.tables a) = a := by
  rw [h.tables_eq]
  exact h.generatorOk.logAt_gfBuildTables ha

/-- A read with a default, at an index in range. -/
theorem vector_getD_of_lt {α : Type} {n i : Nat} (xs : Vector α n) (d : α) (h : i < n) : xs.getD i d = xs[i] := by
  simp [Vector.getD, h]

/-- Entry i of the table of a ready CRC unit (46_crc.md R223). -/
theorem State.CrcReady.crctab_getElem {s : State} (h : s.CrcReady) {i : Nat} (hi : i < 256) :
    s.crctab[i] = crcTableEntry s.crcWidth s.crcPoly (BitVec.ofNat 8 i) := by
  obtain ⟨hinv, hready⟩ := h
  simp only [(hinv.crcTable hready).2, crcBuildTable_getElem]

theorem readTable_log {s : State} (hready : s.status.frdy = true) {i : Nat} (hi : i < 256) (hne : i ≠ 0) :
    readTable s i .log = .ok (zextByte s.tables.log[i]) := by
  have hle : i ≤ 255 := Nat.le_of_lt_succ hi
  simp only [readTable, require_pos hready, require_pos hle, require_pos hne, ok_bind, return_ok,
    vector_getD_of_lt _ _ hi]

theorem readTable_alog {s : State} (hready : s.status.frdy = true) {i : Nat} (hi : i < 256) :
    readTable s i .alog = .ok (zextByte (alogAt s.tables i)) := by
  have hle : i ≤ 255 := Nat.le_of_lt_succ hi
  simp only [readTable, require_pos hready, require_pos hle, ok_bind, return_ok, vector_getD_of_lt _ _ hi, alogAt,
    dif_pos hi]

theorem readTable_crctab {s : State} (hready : s.status.crdy = true) {i : Nat} (hi : i < 256) :
    readTable s i .crctab = .ok s.crctab[i] := by
  have hle : i ≤ 255 := Nat.le_of_lt_succ hi
  simp only [readTable, require_pos hready, require_pos hle, ok_bind, return_ok, vector_getD_of_lt _ _ hi]

theorem readTable_log_zero {s : State} (hready : s.status.frdy = true) :
    readTable s 0 .log = .error .invalidParameters := by
  simp [readTable, hready]

/-- An index above 255 is refused for every table that is ready (40_system_and_move.md R109). -/
theorem readTable_index_too_large {s : State} {c : Table} (hfield : c ≠ .crctab → s.status.frdy = true)
    (hcrc : c = .crctab → s.status.crdy = true) {i : Nat} (hi : 255 < i) :
    readTable s i c = .error .invalidParameters := by
  have hnot : ¬ i ≤ 255 := by omega
  cases c with
  | log | alog => simp [readTable, hfield, hnot]
  | crctab => simp [readTable, hcrc, hnot]

theorem exec_tblrd_reads {s : State} {rd rs : XReg} {sel : Byte} {c : Table} {entry : Word}
    (hsel : tableOfSelector sel = some c) (h : readTable s (s.natOf rs) c = .ok entry) :
    exec (.tblrd rd sel rs) s = .next ((s.setX rd entry).complete .ok 0) := by
  simp only [exec, execTblrd, hsel, h, ok_bind, runCommand_done]

/-- TBLRD of a selector whose table the read refuses. -/
theorem tblrd_refused {s : State} {rd rs : XReg} {sel : Byte} {c : Table} {f : Failure}
    (hsel : tableOfSelector sel = some c) (h : readTable s (s.natOf rs) c = .error f) :
    ∃ t, exec (.tblrd rd sel rs) s = .next t ∧ FailedWith s t f :=
  ⟨_, exec_tblrd_fails hsel h, failedWith_complete s f⟩

/-- An index that fits a byte is that byte's number. -/
theorem toNat_lowByte_of_le {w : Word} (h : w.toNat ≤ 255) : (w.setWidth 8).toNat = w.toNat := by
  rw [BitVec.toNat_setWidth]; exact Nat.mod_eq_of_lt (by omega)

/-- Settles O29: the read of each table, in range by the meaning of the table and out of range by the checks. -/
theorem tblrdReadsTables : Obligations.TblrdReadsTables := by
  refine ⟨fun s rd rs h => ⟨fun hpos hle => ?_, fun hle => ?_, fun hx => ?_, fun hgt => ?_⟩,
    fun s rd rs h => ⟨fun hle => ?_, fun hgt => ?_⟩⟩
  · have hbyte := toNat_lowByte_of_le hle
    have hne : s.x[rs].setWidth 8 ≠ (0 : Byte) := by rw [byte_ne_zero_iff, hbyte]; omega
    have hread := readTable_log h.2 (Nat.lt_succ_of_le hle) (Nat.ne_of_gt hpos)
    obtain ⟨hlt, hval⟩ := h.logAt_spec hne
    simp only [logAt, hbyte, ← toNat_zextByte] at hlt hval
    exact ⟨_, _, exec_tblrd_reads rfl hread, scalarWritten_complete s rd _, hlt, hval⟩
  · have hlt : s.x[rs].toNat < 256 := Nat.lt_succ_of_le hle
    have hread := readTable_alog h.2 hlt
    rw [h.alogAt_eq hlt] at hread
    exact ⟨_, exec_tblrd_reads rfl hread, scalarWritten_complete s rd _⟩
  · refine tblrd_refused (c := .log) rfl ?_
    obtain hgt | hzero := hx
    · exact readTable_index_too_large (c := .log) (fun _ => h.2) nofun hgt
    · rw [State.natOf, hzero]
      exact readTable_log_zero h.2
  · exact tblrd_refused rfl (readTable_index_too_large (c := .alog) (fun _ => h.2) nofun hgt)
  · have hread := readTable_crctab h.2 (Nat.lt_succ_of_le hle)
    rw [h.crctab_getElem] at hread
    exact ⟨_, exec_tblrd_reads rfl hread, scalarWritten_complete s rd _⟩
  · exact tblrd_refused rfl (readTable_index_too_large (c := .crctab) nofun (fun _ => h.2) hgt)

end Sys2Proof.Machine

namespace Sys2Proof.Machine

/-! ### The product from the definition (41_gf_arithmetic.md R120): bilinear, commutative, associative

The loop of R120 applies a polynomial in `gfDouble`, with the bits of `b` as coefficients, to `a`. Such maps are additive,
commute with each other, and send 1 to `b`; commutativity and associativity follow, whatever the polynomial. -/

/-- Adding `a` under two bits, one after the other, is adding it under their XOR. -/
theorem ite_xor_ite (p q : Bool) (r r' a : Byte) :
    (if p ^^ q then r ^^^ r' ^^^ a else r ^^^ r') = (if p then r ^^^ a else r) ^^^ (if q then r' ^^^ a else r') := by
  cases p <;> cases q
  · rfl
  · exact BitVec.xor_assoc r r' a
  · show r ^^^ r' ^^^ a = r ^^^ a ^^^ r'
    ac_rfl
  · calc r ^^^ r' = r ^^^ r' ^^^ (a ^^^ a) := by rw [BitVec.xor_self, BitVec.xor_zero]
      _ = r ^^^ a ^^^ (r' ^^^ a) := by ac_rfl

/-- Doubling on bytes: bit 7 decides whether the low byte of the polynomial is added. -/
theorem gfDouble_eq (poly : BitVec 9) (a : Byte) :
    gfDouble poly a = if a.getLsbD 7 then a <<< 1 ^^^ poly.setWidth 8 else a <<< 1 := by
  have hbit : (a.setWidth 9 <<< 1).getLsbD 8 = a.getLsbD 7 := by simp
  have hlow : (a.setWidth 9 <<< 1).setWidth 8 = a <<< 1 := BitVec.eq_of_getLsbD_eq fun i hi => by simp [hi]
  simp only [gfDouble, hbit, apply_ite (BitVec.setWidth 8), BitVec.setWidth_xor, hlow]

/-- Doubling is additive. -/
theorem gfDouble_xor (poly : BitVec 9) (a b : Byte) : gfDouble poly (a ^^^ b) = gfDouble poly a ^^^ gfDouble poly b := by
  simp only [gfDouble_eq, BitVec.getLsbD_xor, BitVec.shiftLeft_xor_distrib]
  exact ite_xor_ite _ _ _ _ _

/-- Every additive map that commutes with doubling commutes with the loop. -/
theorem map_gfMulxLoop {poly : BitVec 9} {f : Byte → Byte} (hadd : ∀ a b, f (a ^^^ b) = f a ^^^ f b)
    (hdouble : ∀ a, f (gfDouble poly a) = gfDouble poly (f a)) (b : Byte) (n : Nat) (a r : Byte) :
    f (gfMulxLoop poly b n a r) = gfMulxLoop poly b n (f a) (f r) := by
  induction n generalizing a r with
  | zero => rfl
  | succ n ih => rw [gfMulxLoop, gfMulxLoop, ih, hdouble, apply_ite f, hadd]

theorem map_gfMulx {poly : BitVec 9} {f : Byte → Byte} (hadd : ∀ a b, f (a ^^^ b) = f a ^^^ f b)
    (hdouble : ∀ a, f (gfDouble poly a) = gfDouble poly (f a)) (a b : Byte) :
    f (gfMulx poly a b) = gfMulx poly (f a) b := by
  have hzero : f 0 = 0 := by simpa using hadd 0 0
  rw [gfMulx, map_gfMulxLoop hadd hdouble, hzero, gfMulx]

theorem gfMulxLoop_xor (poly : BitVec 9) (b : Byte) (n : Nat) (a a' r r' : Byte) :
    gfMulxLoop poly b n (a ^^^ a') (r ^^^ r') = gfMulxLoop poly b n a r ^^^ gfMulxLoop poly b n a' r' := by
  induction n generalizing a a' r r' with
  | zero => rfl
  | succ n ih =>
    rw [gfMulxLoop, gfMulxLoop, gfMulxLoop, gfDouble_xor, ← ih]
    split
    · congr 1; ac_rfl
    · rfl

theorem gfMulx_xor_left (poly : BitVec 9) (a a' b : Byte) :
    gfMulx poly (a ^^^ a') b = gfMulx poly a b ^^^ gfMulx poly a' b :=
  gfMulxLoop_xor poly b 8 a a' 0 0

theorem gfMulxLoop_xor_right (poly : BitVec 9) (b b' : Byte) (n : Nat) (a r r' : Byte) :
    gfMulxLoop poly (b ^^^ b') n a (r ^^^ r') = gfMulxLoop poly b n a r ^^^ gfMulxLoop poly b' n a r' := by
  induction n generalizing a r r' with
  | zero => rfl
  | succ n ih =>
    rw [gfMulxLoop, gfMulxLoop, gfMulxLoop, ← ih, BitVec.getLsbD_xor, ite_xor_ite]

/-- The product distributes over XOR (R127). -/
theorem gfMulx_xor_right (poly : BitVec 9) (a b b' : Byte) :
    gfMulx poly a (b ^^^ b') = gfMulx poly a b ^^^ gfMulx poly a b' :=
  gfMulxLoop_xor_right poly b b' 8 a 0 0

theorem gfMulx_double_left (poly : BitVec 9) (a b : Byte) :
    gfMulx poly (gfDouble poly a) b = gfDouble poly (gfMulx poly a b) :=
  (map_gfMulx (gfDouble_xor poly) (fun _ => rfl) a b).symm

/-- The order of two factors does not matter: multiplying by one is additive and commutes with doubling. -/
theorem gfMulx_right_comm (poly : BitVec 9) (a b c : Byte) :
    gfMulx poly (gfMulx poly a b) c = gfMulx poly (gfMulx poly a c) b :=
  map_gfMulx (f := (gfMulx poly · c)) (gfMulx_xor_left poly · · c) (gfMulx_double_left poly · c) a b

/-- Doubling `x^k` gives `x^(k+1)` as long as it fits the byte. -/
theorem gfDouble_twoPow (poly : BitVec 9) {k : Nat} (hk : k < 7) :
    gfDouble poly (BitVec.twoPow 8 k) = BitVec.twoPow 8 (k + 1) := by
  interval_cases k <;> rfl

/-- From `x^k` on, the loop copies the bits of `b` from bit `k` on. -/
theorem getLsbD_gfMulxLoop_twoPow (poly : BitVec 9) (b : Byte) {n k i : Nat} (hk : k + n = 8) (hi : i < 8) {a : Byte}
    (ha : k < 8 → a = BitVec.twoPow 8 k) (r : Byte) :
    (gfMulxLoop poly b n a r).getLsbD i = (r.getLsbD i ^^ (decide (k ≤ i) && b.getLsbD i)) := by
  induction n generalizing k a r with
  | zero => simp [gfMulxLoop, show ¬ k ≤ i by omega]
  | succ n ih =>
    obtain rfl : a = BitVec.twoPow 8 k := ha (by omega)
    rw [gfMulxLoop, ih (k := k + 1) (by omega) fun h => gfDouble_twoPow poly (by omega), show 7 - n = k by omega]
    by_cases hik : i = k
    · subst hik
      cases b.getLsbD i <;> simp [hi]
    · have hle : k + 1 ≤ i ↔ k ≤ i := by omega
      cases b.getLsbD k <;> simp [hle, hi, hik]

theorem gfMulx_one_left (poly : BitVec 9) (b : Byte) : gfMulx poly 1 b = b :=
  BitVec.eq_of_getLsbD_eq fun i hi => by
    simpa [gfMulx] using getLsbD_gfMulxLoop_twoPow (k := 0) (a := 1) poly b rfl hi (fun _ => rfl) 0

theorem gfMulx_comm (poly : BitVec 9) (a b : Byte) : gfMulx poly a b = gfMulx poly b a := by
  have h := gfMulx_right_comm poly 1 a b
  rwa [gfMulx_one_left, gfMulx_one_left] at h

theorem gfMulx_assoc (poly : BitVec 9) (a b c : Byte) :
    gfMulx poly (gfMulx poly a b) c = gfMulx poly a (gfMulx poly b c) := by
  rw [gfMulx_comm poly a b, gfMulx_right_comm, gfMulx_comm poly a]

theorem gfMulx_one_right (poly : BitVec 9) (a : Byte) : gfMulx poly a 1 = a := by
  rw [gfMulx_comm, gfMulx_one_left]

theorem gfMulx_zero_right (poly : BitVec 9) (a : Byte) : gfMulx poly a 0 = 0 := by
  rw [gfMulx_comm, gfMulx_zero_left]

/-! ### Repeated products (R126) -/

theorem gfPowx_add (poly : BitVec 9) (a : Byte) (m n : Nat) :
    gfPowx poly a (m + n) = gfMulx poly (gfPowx poly a m) (gfPowx poly a n) := by
  induction n with
  | zero => exact (gfMulx_one_right poly _).symm
  | succ n ih => rw [← Nat.add_assoc, gfPowx, gfPowx, ih, gfMulx_assoc]

theorem gfPowx_mul (poly : BitVec 9) (a : Byte) (m n : Nat) :
    gfPowx poly a (m * n) = gfPowx poly (gfPowx poly a m) n := by
  induction n with
  | zero => rfl
  | succ n ih => rw [Nat.mul_succ, gfPowx_add, ih, gfPowx]

theorem gfPowx_one (poly : BitVec 9) (n : Nat) : gfPowx poly 1 n = 1 := by
  induction n with
  | zero => rfl
  | succ n ih => rw [gfPowx, ih, gfMulx_one_left]

theorem gfPowx_zero {poly : BitVec 9} {n : Nat} (hn : n ≠ 0) : gfPowx poly 0 n = 0 := by
  cases n with
  | zero => exact absurd rfl hn
  | succ n => exact gfMulx_zero_right poly _

/-! ### Powers of a generator that passes the startup assertion -/

theorem State.GeneratorOk.alpha_255 {s : State} (h : s.GeneratorOk) : s.alpha 255 = 1 := h.2.2

theorem State.alpha_add (s : State) (m n : Nat) : s.alpha (m + n) = gfMulx s.fieldPoly (s.alpha m) (s.alpha n) :=
  gfPowx_add s.fieldPoly s.fieldGen m n

theorem State.alpha_mul (s : State) (m n : Nat) : s.alpha (m * n) = gfPowx s.fieldPoly (s.alpha m) n :=
  gfPowx_mul s.fieldPoly s.fieldGen m n

/-- Exponents count modulo 255. -/
theorem State.GeneratorOk.alpha_mod {s : State} (h : s.GeneratorOk) (n : Nat) : s.alpha (n % 255) = s.alpha n := by
  conv_rhs => rw [← Nat.div_add_mod n 255, s.alpha_add, s.alpha_mul, h.alpha_255, gfPowx_one, gfMulx_one_left]

/-! ### The table functions in a ready state are those of the definition (R123, R124, R126) -/

theorem State.FieldReady.gfMul_eq {s : State} (h : s.FieldReady) (a b : Byte) :
    gfMul s.tables a b = gfMulx s.fieldPoly a b := by
  by_cases ha : a = 0
  · rw [ha, gfMulx_zero_left]; exact if_pos (.inl rfl)
  by_cases hb : b = 0
  · rw [hb, gfMulx_zero_right]; exact if_pos (.inr rfl)
  obtain ⟨-, hva⟩ := h.logAt_spec ha
  obtain ⟨-, hvb⟩ := h.logAt_spec hb
  rw [gfMul, if_neg (not_or.2 ⟨ha, hb⟩), h.alogAt_eq (by omega), h.generatorOk.alpha_mod, s.alpha_add, hva, hvb]

theorem State.FieldReady.gfPow_eq {s : State} (h : s.FieldReady) (a : Byte) (n : Nat) :
    gfPow s.tables a n = gfPowx s.fieldPoly a n := by
  by_cases hn : n = 0
  · rw [hn]; rfl
  by_cases ha : a = 0
  · rw [ha, gfPowx_zero hn, gfPow, if_neg hn, if_pos rfl]
  obtain ⟨-, hva⟩ := h.logAt_spec ha
  rw [gfPow, if_neg hn, if_neg ha, h.alogAt_eq (by omega), h.generatorOk.alpha_mod, s.alpha_mul, hva]

theorem State.FieldReady.gfMulx_gfInvNonzero {s : State} (h : s.FieldReady) {a : Byte} (ha : a ≠ 0) :
    gfMulx s.fieldPoly a (gfInvNonzero s.tables a) = 1 := by
  obtain ⟨hlt, hva⟩ := h.logAt_spec ha
  calc gfMulx s.fieldPoly a (gfInvNonzero s.tables a)
      = gfMulx s.fieldPoly (s.alpha (logAt s.tables a)) (s.alpha (255 - logAt s.tables a)) := by
        rw [hva, gfInvNonzero, h.alogAt_eq (by omega)]
    _ = s.alpha 255 := by rw [← s.alpha_add, Nat.add_sub_of_le hlt.le]
    _ = 1 := h.generatorOk.alpha_255

/-- The multiplicative group has order 255 (R127). -/
theorem State.FieldReady.gfPowx_255 {s : State} (h : s.FieldReady) {a : Byte} (ha : a ≠ 0) :
    gfPowx s.fieldPoly a 255 = 1 := by
  obtain ⟨-, hva⟩ := h.logAt_spec ha
  rw [← hva, ← s.alpha_mul, Nat.mul_comm, s.alpha_mul, h.generatorOk.alpha_255, gfPowx_one]

theorem gfInv_zero (t : FieldTables) : gfInv t 0 = .error .divisionByZero := rfl

theorem gfDiv_zero (t : FieldTables) (a : Byte) : gfDiv t a 0 = .error .divisionByZero := rfl

theorem gfInv_of_ne_zero (t : FieldTables) {a : Byte} (ha : a ≠ 0) : gfInv t a = .ok (gfInvNonzero t a) := if_neg ha

/-- Dividing is multiplying by the inverse (R125). -/
theorem gfDiv_of_ne_zero (t : FieldTables) (a : Byte) {b : Byte} (hb : b ≠ 0) :
    gfDiv t a b = .ok (gfMul t a (gfInvNonzero t b)) := by
  rw [gfDiv, gfInv_of_ne_zero t hb]; rfl

theorem State.FieldReady.gfMulx_quotient {s : State} (h : s.FieldReady) (a : Byte) {b : Byte} (hb : b ≠ 0) :
    gfMulx s.fieldPoly (gfMul s.tables a (gfInvNonzero s.tables b)) b = a := by
  rw [h.gfMul_eq, gfMulx_assoc, gfMulx_comm _ _ b, h.gfMulx_gfInvNonzero hb, gfMulx_one_right]

/-- Settles O34: the table functions are those of the definition, whose laws hold. -/
theorem fieldLawsHold : Obligations.FieldLawsHold := by
  intro s h a b c
  simp only [h.gfMul_eq, h.gfPow_eq]
  exact ⟨gfMulx_zero_left _ a, gfMulx_zero_right _ a, gfMulx_one_left _ a, gfMulx_comm _ a b,
    (gfMulx_assoc _ a b c).symm, gfMulx_xor_right _ a b c,
    fun ha => ⟨_, gfInv_of_ne_zero _ ha, h.gfMulx_gfInvNonzero ha⟩, h.gfPowx_255⟩

/-! ### The commands (R128, R130 to R134) -/

/-- With the tables ready a command passes its check for them (R128). -/
theorem State.FieldReady.runCommand_require {s : State} (h : s.FieldReady) (k : Unit → Except Failure Done) :
    runCommand s (require s.status.frdy .notInitialized >>= k) = runCommand s (k ()) := by
  rw [require_pos h.2, ok_bind]

/-- Settles O30: GFADD checks nothing and reads no table. -/
theorem gfaddIsXorOfBytes : Obligations.GfaddIsXorOfBytes := fun s rd rs rt =>
  ⟨_, _, rfl, scalarWritten_complete s rd _, by simp [gfAdd, State.byteOf, lowByte]⟩

/-- Settles O31: GFMUL writes the table product, which is the product from the definition. -/
theorem gfmulMatchesDefinition : Obligations.GfmulMatchesDefinition := by
  intro s rd rs rt h
  rw [← h.gfMul_eq]
  exact ⟨_, h.runCommand_require _, scalarWritten_complete s rd _⟩

/-- Settles O33: GFPOW writes the table power, which is the repeated product. -/
theorem gfpowIsRepeatedProduct : Obligations.GfpowIsRepeatedProduct := by
  intro s rd rs rt h
  rw [← h.gfPow_eq]
  exact ⟨_, h.runCommand_require _, scalarWritten_complete s rd _⟩

theorem exec_gfinv_of_ne_zero {s : State} (h : s.FieldReady) (rd : XReg) {rs : XReg} (hne : s.byteOf rs ≠ 0) :
    exec (.gfinv rd rs) s =
      .next ((s.setX rd (zextByte (gfInvNonzero s.tables (s.byteOf rs)))).complete .ok 0) := by
  refine (h.runCommand_require _).trans ?_
  rw [gfInv_of_ne_zero _ hne, ok_bind, runCommand_done]

theorem exec_gfinv_of_eq_zero {s : State} (h : s.FieldReady) (rd : XReg) {rs : XReg} (hz : s.byteOf rs = 0) :
    exec (.gfinv rd rs) s = .next (s.complete (.failure .divisionByZero) 0) := by
  refine (h.runCommand_require _).trans ?_
  rw [hz, gfInv_zero, error_bind, runCommand_error]

theorem exec_gfdiv_of_ne_zero {s : State} (h : s.FieldReady) (rd rs : XReg) {rt : XReg} (hne : s.byteOf rt ≠ 0) :
    exec (.gfdiv rd rs rt) s =
      .next ((s.setX rd (zextByte (gfMul s.tables (s.byteOf rs) (gfInvNonzero s.tables (s.byteOf rt))))).complete
        .ok 0) := by
  refine (h.runCommand_require _).trans ?_
  rw [gfDiv_of_ne_zero _ _ hne, ok_bind, runCommand_done]

theorem exec_gfdiv_of_eq_zero {s : State} (h : s.FieldReady) (rd rs : XReg) {rt : XReg} (hz : s.byteOf rt = 0) :
    exec (.gfdiv rd rs rt) s = .next (s.complete (.failure .divisionByZero) 0) := by
  refine (h.runCommand_require _).trans ?_
  rw [hz, gfDiv_zero, error_bind, runCommand_error]

/-- Settles O32, by whether the byte to invert is 0. -/
theorem gfinvAndGfdivInvert : Obligations.GfinvAndGfdivInvert := by
  intro s rd rs rt h
  have written := scalarWritten_complete s rd
  have failed := failedWith_complete s .divisionByZero
  exact ⟨fun hne => ⟨_, _, exec_gfinv_of_ne_zero h rd hne, written _, h.gfMulx_gfInvNonzero hne⟩,
    fun hz => ⟨_, exec_gfinv_of_eq_zero h rd hz, failed⟩,
    fun hne => ⟨_, _, exec_gfdiv_of_ne_zero h rd rs hne, written _, h.gfMulx_quotient _ hne⟩,
    fun hz => ⟨_, exec_gfdiv_of_eq_zero h rd rs hz, failed⟩⟩

end Sys2Proof.Machine

namespace Sys2Proof.Machine

/-! ### Vector moves (42_vector_move.md) -/

/-- A command whose only destination is a vector register. -/
theorem vectorWritten_complete (s : State) (vd : VReg) (bs : List Byte) :
    VectorWritten s ((s.setV vd bs).complete .ok 0) vd bs where
  content := setV_read_same s vd bs
  others r hr := setV_read_other s vd r bs hr
  frame := rfl

/-- A command whose check passes goes on with the rest of its body. -/
theorem runCommand_require_pos (s : State) {c : Prop} [Decidable c] (hc : c) (f : Failure)
    (k : Unit → Except Failure Done) : runCommand s (require c f >>= k) = runCommand s (k ()) := by
  rw [runCommand_require, if_pos hc]

theorem coeff_reverse (p : List Byte) {i : Nat} (hi : i < p.length) :
    coeff p.reverse i = coeff p (p.length - 1 - i) :=
  congrFun (List.getD_reverse i hi) 0

theorem coeff_set_same (p : List Byte) {i : Nat} (hi : i < p.length) (b : Byte) : coeff (p.set i b) i = b := by
  simp [coeff, hi]

theorem coeff_set_other (p : List Byte) {i j : Nat} (hij : j ≠ i) (b : Byte) :
    coeff (p.set i b) j = coeff p j := by
  simp [coeff, List.getElem?_set_ne hij.symm]

/-- Settles O35: what each command leaves in its register is read off its meaning, with its check decided by the length;
the reversal and the update of one element are then described coefficient by coefficient. -/
theorem vectorWritesComplete : Obligations.VectorWritesComplete := by
  intro s vd vs rs rt imm
  have written := vectorWritten_complete s vd
  have failed := failedWith_complete s
  refine ⟨⟨_, rfl, written _⟩,
    fun hroom => ⟨_, runCommand_require_pos s hroom _ _, written _⟩,
    fun hroom => ⟨_, runCommand_require_pos s hroom _ _, written _⟩,
    fun hfull => ?_, ⟨_, rfl, written _⟩, ⟨_, _, rfl, written _, List.length_reverse, fun i hi => ?_⟩,
    fun hin => ⟨_, _, runCommand_require_pos s hin _ _, written _, List.length_set, coeff_set_same _ hin _,
      fun i hne => coeff_set_other _ hne _⟩,
    fun hout => ⟨_, runCommand_require_neg s (Nat.not_lt.2 hout) _ _, failed _⟩⟩
  · have hnot : ¬ s.v[vd].length < Config.vcap := Nat.not_lt.2 hfull
    exact ⟨⟨_, runCommand_require_neg s hnot _ _, failed _⟩, ⟨_, runCommand_require_neg s hnot _ _, failed _⟩⟩
  · rw [List.length_reverse] at hi ⊢
    exact coeff_reverse _ hi

/-- Settles O36: VGET checks its index against the length; a length of at most 256 fits the register VLEN writes. -/
theorem vectorReadsComplete : Obligations.VectorReadsComplete := by
  intro s rd rt vs
  have written := scalarWritten_complete s rd
  exact ⟨fun hin => ⟨_, _, runCommand_require_pos s hin _ _, written _, toNat_zextByte _⟩,
    fun hout => ⟨_, runCommand_require_neg s (Nat.not_lt.2 hout) _ _, failedWith_complete s _⟩,
    fun hlen => ⟨_, _, rfl, written _, Nat.mod_eq_of_lt (by omega)⟩⟩

end Sys2Proof.Machine

namespace Sys2Proof.Machine

/-! ### Polynomials (43_polynomial.md)

The statements speak of coefficients, so every list operation gets one lemma that gives its coefficient k; two lists
that differ in zeros at the end are then the same polynomial. -/

/-! ### Sums of field elements -/

theorem xorSum_cons (a : Byte) (l : List Byte) : xorSum (a :: l) = a ^^^ xorSum l := rfl

/-- The sum of the first `n + 1` terms, the term of index 0 taken out. -/
theorem xorSum_map_range_succ (f : Nat → Byte) (n : Nat) :
    xorSum ((List.range (n + 1)).map f) = f 0 ^^^ xorSum ((List.range n).map fun i => f (i + 1)) := by
  rw [List.range_succ_eq_map, List.map_cons, xorSum_cons, List.map_map]
  rfl

theorem xorSum_eq_zero {l : List Byte} (h : ∀ a ∈ l, a = 0) : xorSum l = 0 := by
  induction l with
  | nil => rfl
  | cons a l ih =>
    obtain ⟨ha, hl⟩ := List.forall_mem_cons.1 h
    rw [xorSum_cons, ha, ih hl]
    rfl

/-- The product distributes over a sum (41_gf_arithmetic.md R127). -/
theorem gfMulx_xorSum (poly : BitVec 9) (x : Byte) (l : List Byte) :
    gfMulx poly x (xorSum l) = xorSum (l.map (gfMulx poly x)) := by
  induction l with
  | nil => exact gfMulx_zero_right poly x
  | cons a l ih => rw [xorSum_cons, gfMulx_xor_right, ih, List.map_cons, xorSum_cons]

/-! ### Coefficients of lists -/

@[simp] theorem coeff_nil (k : Nat) : coeff [] k = 0 := rfl

@[simp] theorem coeff_cons_zero (a : Byte) (p : List Byte) : coeff (a :: p) 0 = a := rfl

@[simp] theorem coeff_cons_succ (a : Byte) (p : List Byte) (k : Nat) : coeff (a :: p) (k + 1) = coeff p k := rfl

theorem coeff_eq_zero_of_length_le {p : List Byte} {k : Nat} (h : p.length ≤ k) : coeff p k = 0 :=
  List.getD_eq_default p 0 h

theorem coeff_append_left {p : List Byte} (q : List Byte) {k : Nat} (h : k < p.length) :
    coeff (p ++ q) k = coeff p k :=
  List.getD_append p q 0 k h

theorem coeff_append_right {p : List Byte} (q : List Byte) {k : Nat} (h : p.length ≤ k) :
    coeff (p ++ q) k = coeff q (k - p.length) :=
  List.getD_append_right p q 0 k h

/-- Multiplying by a power of x moves the coefficients up and puts zeros below them. -/
theorem coeff_replicate_append (n : Nat) (p : List Byte) (k : Nat) :
    coeff (List.replicate n 0 ++ p) k = if k < n then 0 else coeff p (k - n) := by
  split
  · rename_i hk
    rw [coeff_append_left p (by simpa using hk)]
    simp [coeff, hk]
  · rename_i hk
    simpa using coeff_append_right (p := List.replicate n 0) p (k := k) (by simpa using hk)

@[simp] theorem coeff_replicate_zero (n k : Nat) : coeff (List.replicate n 0) k = 0 := by
  simpa using coeff_replicate_append n [] k

theorem coeff_take (p : List Byte) (n k : Nat) : coeff (p.take n) k = if k < n then coeff p k else 0 := by
  simp only [coeff, List.getD_eq_getElem?_getD, List.getElem?_take]
  split <;> rfl

theorem coeff_drop (p : List Byte) (n k : Nat) : coeff (p.drop n) k = coeff p (n + k) := by
  simp only [coeff, List.getD_eq_getElem?_getD, List.getElem?_drop]

/-- Trimming does not change the polynomial (43_polynomial.md R161). -/
@[simp] theorem coeff_polyTrim (p : List Byte) (k : Nat) : coeff (polyTrim p) k = coeff p k := by
  obtain ⟨m, hm⟩ := polyTrim_append p
  by_cases hk : k < (polyTrim p).length
  · conv_rhs => rw [hm, coeff_append_left _ hk]
  · have hle := Nat.le_of_not_lt hk
    conv_rhs => rw [hm, coeff_append_right _ hle]
    rw [coeff_eq_zero_of_length_le hle, coeff_replicate_zero]

/-- Coefficient k of a scalar multiple. -/
theorem coeff_map_gfMulx (poly : BitVec 9) (c : Byte) (p : List Byte) (k : Nat) :
    coeff (p.map (gfMulx poly c)) k = gfMulx poly c (coeff p k) := by
  have hmap := List.getD_map p 0 (gfMulx poly c) (n := k)
  rwa [gfMulx_zero_right] at hmap

/-- Adding `q` from element `k` on adds x^k times `q`. -/
theorem coeff_polyAddAt {k : Nat} {p : List Byte} (h : k ≤ p.length) (q : List Byte) (j : Nat) :
    coeff (polyAddAt k q p) j = coeff p j ^^^ coeff (List.replicate k 0 ++ q) j := by
  have hlen : (p.take k).length = k := List.length_take_of_le h
  rw [polyAddAt, coeff_replicate_append]
  split
  · rename_i hj
    rw [coeff_append_left _ (by omega), coeff_take, if_pos hj]
    exact BitVec.xor_zero.symm
  · rename_i hj
    rw [coeff_append_right _ (by omega), coeff_polyAdd, coeff_drop, hlen, Nat.add_sub_of_le (by omega)]

theorem coeff_of_getLast? {p : List Byte} {c : Byte} (h : p.getLast? = some c) : coeff p (p.length - 1) = c := by
  rw [List.getLast?_eq_getElem?] at h
  rw [coeff, List.getD_eq_getElem?_getD, h, Option.getD_some]

/-! ### The zero polynomial -/

theorem zeroPoly_iff_coeff {p : List Byte} : ZeroPoly p ↔ ∀ k, coeff p k = 0 := by
  constructor
  · intro h k
    by_cases hk : k < p.length
    · rw [coeff, List.getD_eq_getElem _ _ hk]
      exact h _ (List.getElem_mem hk)
    · exact coeff_eq_zero_of_length_le (Nat.le_of_not_lt hk)
  · intro h c hc
    obtain ⟨k, hk, rfl⟩ := List.mem_iff_getElem.1 hc
    rw [← h k, coeff, List.getD_eq_getElem _ _ hk]

theorem Canonical.ne_nil {p : List Byte} (h : Canonical p) : p ≠ [] := by
  rintro rfl
  simp [Canonical] at h

/-- A non-empty list trims to `[0]` exactly when it is the zero polynomial (R161). -/
theorem polyTrim_eq_zero_iff {p : List Byte} (h : p ≠ []) : polyTrim p = [0] ↔ ZeroPoly p := by
  constructor
  · intro hp
    refine zeroPoly_iff_coeff.2 fun k => ?_
    rw [← coeff_polyTrim, hp]
    exact coeff_replicate_zero 1 k
  · intro hp
    by_contra hne
    obtain ⟨c, hlast, hc⟩ := (canonical_polyTrim h).resolve_left hne
    rw [← coeff_of_getLast? hlast, coeff_polyTrim] at hc
    exact hc (zeroPoly_iff_coeff.1 hp _)

/-- A nonzero polynomial trims to a list with a leading coefficient. -/
theorem exists_getLast?_polyTrim {p : List Byte} (h : p ≠ []) (hz : ¬ ZeroPoly p) :
    ∃ c, (polyTrim p).getLast? = some c ∧ c ≠ 0 :=
  (canonical_polyTrim h).resolve_left (mt (polyTrim_eq_zero_iff h).1 hz)

/-! ### The convolution (R163) -/

theorem convCoeff_congr {poly : BitVec 9} {p p' q q' : List Byte} (hp : ∀ i, coeff p i = coeff p' i)
    (hq : ∀ i, coeff q i = coeff q' i) (k : Nat) : convCoeff poly p q k = convCoeff poly p' q' k := by
  simp only [convCoeff, hp, hq]

@[simp] theorem convCoeff_polyTrim_left (poly : BitVec 9) (p q : List Byte) (k : Nat) :
    convCoeff poly (polyTrim p) q k = convCoeff poly p q k :=
  convCoeff_congr (coeff_polyTrim p) (fun _ => rfl) k

@[simp] theorem convCoeff_polyTrim_right (poly : BitVec 9) (p q : List Byte) (k : Nat) :
    convCoeff poly p (polyTrim q) k = convCoeff poly p q k :=
  convCoeff_congr (fun _ => rfl) (coeff_polyTrim q) k

theorem convCoeff_of_zeroPoly_left (poly : BitVec 9) {p : List Byte} (hp : ZeroPoly p) (q : List Byte) (k : Nat) :
    convCoeff poly p q k = 0 :=
  xorSum_eq_zero fun a ha => by
    obtain ⟨i, -, rfl⟩ := List.mem_map.1 ha
    rw [zeroPoly_iff_coeff.1 hp, gfMulx_zero_left]

theorem convCoeff_of_zeroPoly_right (poly : BitVec 9) (p : List Byte) {q : List Byte} (hq : ZeroPoly q) (k : Nat) :
    convCoeff poly p q k = 0 :=
  xorSum_eq_zero fun a ha => by
    obtain ⟨i, -, rfl⟩ := List.mem_map.1 ha
    rw [zeroPoly_iff_coeff.1 hq, gfMulx_zero_right]

@[simp] theorem convCoeff_nil (poly : BitVec 9) (q : List Byte) (k : Nat) : convCoeff poly [] q k = 0 :=
  convCoeff_of_zeroPoly_left poly (p := []) (by simp [ZeroPoly]) q k

/-- `(a + x·p)·q = a·q + x·(p·q)`: the constant coefficient. -/
theorem convCoeff_cons_zero (poly : BitVec 9) (a : Byte) (p q : List Byte) :
    convCoeff poly (a :: p) q 0 = gfMulx poly a (coeff q 0) :=
  BitVec.xor_zero

/-- `(a + x·p)·q = a·q + x·(p·q)`: the other coefficients. -/
theorem convCoeff_cons_succ (poly : BitVec 9) (a : Byte) (p q : List Byte) (k : Nat) :
    convCoeff poly (a :: p) q (k + 1) = gfMulx poly a (coeff q (k + 1)) ^^^ convCoeff poly p q k := by
  rw [convCoeff, xorSum_map_range_succ]
  simp only [coeff_cons_zero, coeff_cons_succ, Nat.sub_zero, Nat.add_sub_add_right, convCoeff]

/-- A further coefficient `c` of x^n, n the length of `p`, adds `c·x^n·q` to the product. -/
theorem convCoeff_append_singleton (poly : BitVec 9) (p : List Byte) (c : Byte) (q : List Byte) (k : Nat) :
    convCoeff poly (p ++ [c]) q k =
      convCoeff poly p q k ^^^ coeff (List.replicate p.length 0 ++ q.map (gfMulx poly c)) k := by
  induction p generalizing k with
  | nil =>
    cases k with
    | zero => simp [convCoeff_cons_zero, coeff_map_gfMulx]
    | succ k => simp [convCoeff_cons_succ, coeff_map_gfMulx]
  | cons a p ih =>
    cases k with
    | zero => simp [convCoeff_cons_zero, List.replicate_succ]
    | succ k => simp [convCoeff_cons_succ, List.replicate_succ, ih, BitVec.xor_assoc]

/-! ### The table-based operations in a ready state -/

theorem State.FieldReady.polyScale_eq {s : State} (h : s.FieldReady) (c : Byte) (p : List Byte) :
    polyScale s.tables c p = p.map (gfMulx s.fieldPoly c) := by
  simp only [polyScale, funext (h.gfMul_eq c)]

/-- The recursion of the untrimmed product, coefficient by coefficient, without its case for one element. -/
theorem coeff_polyConv_cons (t : FieldTables) (a : Byte) (p q : List Byte) (k : Nat) :
    coeff (polyConv t (a :: p) q) k = coeff (polyScale t a q) k ^^^ coeff (0 :: polyConv t p q) k := by
  cases p with
  | nil =>
    have hzero : coeff (0 :: polyConv t [] q) k = 0 := coeff_replicate_zero 1 k
    rw [hzero]
    exact BitVec.xor_zero.symm
  | cons b p => exact coeff_polyAdd _ _ k

/-- The untrimmed product is the convolution (R163). -/
theorem State.FieldReady.coeff_polyConv {s : State} (h : s.FieldReady) (p q : List Byte) (k : Nat) :
    coeff (polyConv s.tables p q) k = convCoeff s.fieldPoly p q k := by
  induction p generalizing k with
  | nil => rw [polyConv, coeff_nil, convCoeff_nil]
  | cons a p ih =>
    rw [coeff_polyConv_cons, h.polyScale_eq, coeff_map_gfMulx]
    cases k with
    | zero => rfl
    | succ k => rw [coeff_cons_succ, ih, convCoeff_cons_succ]

/-- Coefficient k of the product (R163). -/
theorem State.FieldReady.coeff_polyMul {s : State} (h : s.FieldReady) (p q : List Byte) (k : Nat) :
    coeff (polyMul s.tables p q) k = convCoeff s.fieldPoly p q k := by
  rw [polyMul, coeff_polyTrim, h.coeff_polyConv, convCoeff_polyTrim_left, convCoeff_polyTrim_right]

theorem polyConv_ne_nil (t : FieldTables) {p q : List Byte} (hp : p ≠ []) (hq : q ≠ []) : polyConv t p q ≠ [] := by
  have hp' := List.length_pos_iff.2 hp
  have hq' := List.length_pos_iff.2 hq
  rw [← List.length_pos_iff, length_polyConv t hp hq]
  omega

/-- A product has at most one element less than both trimmed operands together. -/
theorem length_polyMul_le_polyTrim (t : FieldTables) {p q : List Byte} (hp : p ≠ []) (hq : q ≠ []) :
    (polyMul t p q).length ≤ (polyTrim p).length + (polyTrim q).length - 1 := by
  rw [← length_polyConv t (polyTrim_ne_nil hp) (polyTrim_ne_nil hq)]
  exact length_polyTrim_le _

theorem canonical_polyMul (t : FieldTables) {p q : List Byte} (hp : p ≠ []) (hq : q ≠ []) :
    Canonical (polyMul t p q) :=
  canonical_polyTrim (polyConv_ne_nil t (polyTrim_ne_nil hp) (polyTrim_ne_nil hq))

/-- A product with the zero polynomial is the zero polynomial in canonical form. -/
theorem State.FieldReady.polyMul_of_zeroPoly {s : State} (h : s.FieldReady) {p q : List Byte} (hp : p ≠ [])
    (hq : q ≠ []) (hz : ZeroPoly p ∨ ZeroPoly q) : polyMul s.tables p q = [0] := by
  refine (polyTrim_eq_zero_iff (polyConv_ne_nil _ (polyTrim_ne_nil hp) (polyTrim_ne_nil hq))).2 ?_
  refine zeroPoly_iff_coeff.2 fun k => ?_
  rw [h.coeff_polyConv, convCoeff_polyTrim_left, convCoeff_polyTrim_right]
  obtain hz | hz := hz
  · exact convCoeff_of_zeroPoly_left _ hz q k
  · exact convCoeff_of_zeroPoly_right _ p hz k

/-- The product of nonzero bytes is not zero: one of them has an inverse. -/
theorem State.FieldReady.gfMul_ne_zero {s : State} (h : s.FieldReady) {a b : Byte} (ha : a ≠ 0) (hb : b ≠ 0) :
    gfMul s.tables a b ≠ 0 := by
  rw [h.gfMul_eq]
  intro h0
  have hinv : gfMulx s.fieldPoly (gfInvNonzero s.tables a) (gfMulx s.fieldPoly a b) = b := by
    rw [← gfMulx_assoc, gfMulx_comm _ _ a, h.gfMulx_gfInvNonzero ha, gfMulx_one_left]
  rw [h0, gfMulx_zero_right] at hinv
  exact hb hinv.symm

theorem getLast?_polyAdd {p q : List Byte} (h : p.length < q.length) : (polyAdd p q).getLast? = q.getLast? := by
  induction p generalizing q with
  | nil => rw [polyAdd]
  | cons a p ih =>
    cases q with
    | nil => simp at h
    | cons b q =>
      have hlt : p.length < q.length := by simpa using h
      have hq : q.getLast? = some (q.getLast (by rintro rfl; simp at hlt)) := List.getLast?_eq_some_getLast _
      rw [polyAdd, List.getLast?_cons, List.getLast?_cons, ih hlt, hq]
      rfl

/-- The leading coefficient of the untrimmed product is the product of the leading coefficients. -/
theorem getLast?_polyConv (t : FieldTables) {p q : List Byte} {a b : Byte} (hp : p.getLast? = some a)
    (hq : q.getLast? = some b) : (polyConv t p q).getLast? = some (gfMul t a b) := by
  induction p with
  | nil => simp at hp
  | cons c p ih =>
    cases p with
    | nil =>
      obtain rfl : c = a := by simpa using hp
      rw [polyConv, polyScale, List.getLast?_map, hq, Option.map_some]
    | cons d p =>
      have hlen := length_polyConv t (p := d :: p) (by simp) (by rintro rfl; simp at hq : q ≠ [])
      have hlonger : (polyScale t c q).length < (0 :: polyConv t (d :: p) q).length := by
        simp only [length_polyScale, List.length_cons] at hlen ⊢
        omega
      show (polyAdd (polyScale t c q) (0 :: polyConv t (d :: p) q)).getLast? = _
      rw [getLast?_polyAdd hlonger, List.getLast?_cons, ih (by simpa using hp), Option.getD_some]

/-- A product of nonzero polynomials is as long as both trimmed operands together, less one (R163). -/
theorem State.FieldReady.length_polyMul {s : State} (h : s.FieldReady) {p q : List Byte} (hp : p ≠ []) (hq : q ≠ [])
    (hpz : ¬ ZeroPoly p) (hqz : ¬ ZeroPoly q) :
    (polyMul s.tables p q).length = (polyTrim p).length + (polyTrim q).length - 1 := by
  obtain ⟨a, hpa, ha⟩ := exists_getLast?_polyTrim hp hpz
  obtain ⟨b, hqb, hb⟩ := exists_getLast?_polyTrim hq hqz
  rw [polyMul, polyTrim_of_getLast (getLast?_polyConv _ hpa hqb) (h.gfMul_ne_zero ha hb),
    length_polyConv _ (polyTrim_ne_nil hp) (polyTrim_ne_nil hq)]

/-! ### Horner's rule (R162) -/

/-- The value of `a + x·p` at `x`. -/
theorem polyValue_cons (poly : BitVec 9) (a : Byte) (p : List Byte) (x : Byte) :
    polyValue poly (a :: p) x = a ^^^ gfMulx poly (polyValue poly p x) x := by
  rw [polyValue, List.length_cons, xorSum_map_range_succ, coeff_cons_zero, gfPowx, gfMulx_one_right, gfMulx_comm,
    polyValue, gfMulx_xorSum, List.map_map]
  congr 3
  funext i
  simp only [coeff_cons_succ, gfPowx, Function.comp_apply]
  rw [gfMulx_comm _ x, gfMulx_assoc]

theorem State.FieldReady.polyEval_eq {s : State} (h : s.FieldReady) (p : List Byte) (x : Byte) :
    polyEval s.tables p x = polyValue s.fieldPoly p x := by
  induction p with
  | nil => rfl
  | cons a p ih =>
    calc polyEval s.tables (a :: p) x
        = gfMul s.tables (polyEval s.tables p x) x ^^^ a := rfl
      _ = a ^^^ gfMulx s.fieldPoly (polyValue s.fieldPoly p x) x := by rw [ih, h.gfMul_eq, BitVec.xor_comm]
      _ = polyValue s.fieldPoly (a :: p) x := (polyValue_cons _ a p x).symm

/-! ### Long division (R164) -/

theorem xor_xor_self_right (a b : Byte) : a ^^^ b ^^^ b = a := by
  rw [BitVec.xor_assoc, BitVec.xor_self, BitVec.xor_zero]

/-- One turn of the division adds `c·x^m·d` to the running dividend. -/
theorem State.FieldReady.coeff_divTurn {s : State} (h : s.FieldReady) {m : Nat} {rem : List Byte} (hm : m ≤ rem.length)
    (c : Byte) (d : List Byte) (j : Nat) :
    coeff (polyAddAt m (polyScale s.tables c d) rem) j =
      coeff rem j ^^^ coeff (List.replicate m 0 ++ d.map (gfMulx s.fieldPoly c)) j := by
  rw [coeff_polyAddAt hm, h.polyScale_eq]

/-- With `c` the quotient of the leading coefficients, the turn for x^m takes the running dividend from degree n + m to
a lower one, n being the degree of `d`. -/
theorem State.FieldReady.coeff_divTurn_eq_zero {s : State} (h : s.FieldReady) {d rem : List Byte} {n m : Nat} {c : Byte}
    (hd : d.length = n + 1) (hm : m ≤ rem.length) (hhigh : ∀ j, n + (m + 1) ≤ j → coeff rem j = 0)
    (hc : gfMulx s.fieldPoly c (coeff d n) = coeff rem (n + m)) {j : Nat} (hj : n + m ≤ j) :
    coeff (polyAddAt m (polyScale s.tables c d) rem) j = 0 := by
  rw [h.coeff_divTurn hm, coeff_replicate_append, if_neg (by omega), coeff_map_gfMulx]
  obtain rfl | hlt := Nat.eq_or_lt_of_le hj
  · rw [Nat.add_sub_cancel, hc]
    exact BitVec.xor_self
  · have hdj : coeff d (j - m) = 0 := coeff_eq_zero_of_length_le (by omega)
    rw [hhigh j (by omega), hdj, gfMulx_zero_right]
    rfl

/-- A turn of the division: the quotient of the leading coefficients goes to the quotient, and its multiple of `d` is
added to the running dividend. -/
theorem divLoop_succ (t : FieldTables) (d : List Byte) (n : Nat) (linv : Byte) (m : Nat) (rem quo : List Byte) :
    divLoop t d n linv (m + 1) rem quo =
      divLoop t d n linv m (polyAddAt m (polyScale t (gfMul t (coeff rem (n + m)) linv) d) rem)
        (gfMul t (coeff rem (n + m)) linv :: quo) := rfl

/-- What the last `k` turns of the long division leave: `new` quotient coefficients and a remainder of lower degree than
`d`, with `rem = new·d + rem'`. -/
theorem State.FieldReady.divLoop_spec {s : State} (h : s.FieldReady) {d : List Byte} {n : Nat} (hd : d.length = n + 1)
    (hlead : coeff d n ≠ 0) (k : Nat) (rem quo : List Byte) (hk : k ≤ rem.length)
    (hhigh : ∀ j, n + k ≤ j → coeff rem j = 0) :
    ∃ new rem', divLoop s.tables d n (gfInvNonzero s.tables (coeff d n)) k rem quo = (new ++ quo, rem') ∧
      new.length = k ∧ rem.length ≤ rem'.length ∧ (∀ j, n ≤ j → coeff rem' j = 0) ∧
      ∀ j, coeff rem j = convCoeff s.fieldPoly new d j ^^^ coeff rem' j := by
  induction k generalizing rem quo with
  | zero => exact ⟨[], rem, rfl, rfl, le_rfl, hhigh, fun j => by rw [convCoeff_nil]; exact BitVec.zero_xor.symm⟩
  | succ m ih =>
    have hm : m ≤ rem.length := Nat.le_of_succ_le hk
    have hquot := h.gfMulx_quotient (coeff rem (n + m)) hlead
    rw [divLoop_succ]
    generalize gfMul s.tables (coeff rem (n + m)) (gfInvNonzero s.tables (coeff d n)) = c at hquot ⊢
    have hlen := length_polyAddAt m (polyScale s.tables c d) rem hm
    obtain ⟨new, rem', hrun, hnew, hrem', hlow, hsum⟩ :=
      ih _ (c :: quo) (by omega) fun j => h.coeff_divTurn_eq_zero hd hm hhigh hquot
    refine ⟨new ++ [c], rem', by rw [hrun, List.append_cons], by simp [hnew], by omega, hlow, fun j => ?_⟩
    calc coeff rem j
        = coeff (polyAddAt m (polyScale s.tables c d) rem) j ^^^
            coeff (List.replicate m 0 ++ d.map (gfMulx s.fieldPoly c)) j := by
          rw [h.coeff_divTurn hm, xor_xor_self_right]
      _ = convCoeff s.fieldPoly (new ++ [c]) d j ^^^ coeff rem' j := by
          rw [hsum, convCoeff_append_singleton, hnew]
          ac_rfl

/-- `p = q·d + r` with both results canonical and r of lower degree than `d` (R164). -/
structure IsQuotRem (poly : BitVec 9) (p d q r : List Byte) : Prop where
  quotient : Canonical q
  remainder : Canonical r
  degree : r = [0] ∨ r.length < d.length
  sum : ∀ k, coeff p k = convCoeff poly q d k ^^^ coeff r k

/-- A dividend of lower degree than the divisor is its own remainder. -/
theorem isQuotRem_of_length_lt (poly : BitVec 9) {p d : List Byte} (hp : Canonical p) (hlen : p.length < d.length) :
    IsQuotRem poly p d [0] p where
  quotient := .inl rfl
  remainder := hp
  degree := .inr hlen
  sum k := by
    rw [convCoeff_of_zeroPoly_left poly (p := [0]) (by simp [ZeroPoly])]
    exact BitVec.zero_xor.symm

/-- The remainder as R164 cuts it out: the elements below index `n`, or `[0]` when there are none. -/
theorem coeff_lowPart {rem : List Byte} {n : Nat} (hlow : ∀ j, n ≤ j → coeff rem j = 0) (k : Nat) :
    coeff (if n ≥ 1 then rem.take n else [0]) k = coeff rem k := by
  split
  · rw [coeff_take]
    split
    · rfl
    · exact (hlow k (by omega)).symm
  · rw [hlow k (by omega)]
    exact coeff_replicate_zero 1 k

/-- What the loop leaves, cut and trimmed, is quotient and remainder. -/
theorem isQuotRem_of_loop {poly : BitVec 9} {p d new rem : List Byte} {n : Nat} (hd : d.length = n + 1)
    (hnew : new ≠ []) (hrem : rem ≠ []) (hlow : ∀ j, n ≤ j → coeff rem j = 0)
    (hsum : ∀ j, coeff p j = convCoeff poly new d j ^^^ coeff rem j) :
    IsQuotRem poly p d (polyTrim new) (polyTrim (if n ≥ 1 then rem.take n else [0])) where
  quotient := canonical_polyTrim hnew
  remainder := by
    refine canonical_polyTrim ?_
    split
    · have hn : n ≠ 0 := by omega
      simp [hn, hrem]
    · simp
  degree := by
    split
    · refine .inr (lt_of_le_of_lt (length_polyTrim_le _) ?_)
      rw [List.length_take]
      omega
    · exact .inl rfl
  sum k := by rw [convCoeff_polyTrim_left, coeff_polyTrim, coeff_lowPart hlow, hsum]

theorem divTrimmed_of_lt (t : FieldTables) {p d : List Byte} (hlt : p.length - 1 < d.length - 1) :
    divTrimmed t p d = ([0], p) := if_pos hlt

/-- The division runs the loop once for each coefficient of the quotient. -/
theorem divTrimmed_of_loop (t : FieldTables) {p d new rem : List Byte} (hnot : ¬ p.length - 1 < d.length - 1)
    (hrun : divLoop t d (d.length - 1) (gfInvNonzero t (coeff d (d.length - 1))) (p.length - (d.length - 1)) p [] =
      (new, rem)) :
    divTrimmed t p d = (polyTrim new, polyTrim (if d.length - 1 ≥ 1 then rem.take (d.length - 1) else [0])) := by
  refine (if_neg hnot).trans ?_
  rw [coeff] at hrun
  rw [hrun]

/-- The division of trimmed operands (R164). -/
theorem State.FieldReady.isQuotRem_divTrimmed {s : State} (h : s.FieldReady) {p d : List Byte} {c : Byte}
    (hp : Canonical p) (hd : d.getLast? = some c) (hc : c ≠ 0) :
    IsQuotRem s.fieldPoly p d (divTrimmed s.tables p d).1 (divTrimmed s.tables p d).2 := by
  have hppos := List.length_pos_iff.2 hp.ne_nil
  have hdpos : 0 < d.length := List.length_pos_iff.2 (by rintro rfl; simp at hd)
  by_cases hlt : p.length - 1 < d.length - 1
  · rw [divTrimmed_of_lt _ hlt]
    exact isQuotRem_of_length_lt _ hp (by omega)
  · have hdlen : d.length = d.length - 1 + 1 := by omega
    have hlead : coeff d (d.length - 1) ≠ 0 := by rwa [coeff_of_getLast? hd]
    obtain ⟨new, rem, hrun, hnew, hrem, hlow, hsum⟩ := h.divLoop_spec hdlen hlead (p.length - (d.length - 1)) p []
      (Nat.sub_le _ _) fun j hj => coeff_eq_zero_of_length_le (by omega)
    rw [List.append_nil] at hrun
    rw [divTrimmed_of_loop _ hlt hrun]
    exact isQuotRem_of_loop hdlen (List.length_pos_iff.1 (by omega)) (List.length_pos_iff.1 (by omega)) hlow hsum

theorem polyDivmod_of_zeroPoly (t : FieldTables) (p : List Byte) {d : List Byte} (hd : d ≠ []) (hz : ZeroPoly d) :
    polyDivmod t p d = .error .invalidParameters := by
  have hnot : ¬ polyTrim d ≠ [0] := not_not.2 ((polyTrim_eq_zero_iff hd).2 hz)
  rw [polyDivmod, require_neg hnot, error_bind]

theorem polyDivmod_of_not_zeroPoly (t : FieldTables) (p : List Byte) {d : List Byte} (hd : d ≠ []) (hz : ¬ ZeroPoly d) :
    polyDivmod t p d = .ok (divTrimmed t (polyTrim p) (polyTrim d)) := by
  have hne : polyTrim d ≠ [0] := mt (polyTrim_eq_zero_iff hd).1 hz
  rw [polyDivmod, require_pos hne, ok_bind, return_ok]

/-! ### The commands (R170 to R173) -/

theorem not_both_nonempty {p q : List Byte} (h : p = [] ∨ q = []) : ¬ (1 ≤ p.length ∧ 1 ≤ q.length) := by
  obtain rfl | rfl := h <;> simp

theorem both_nonempty {p q : List Byte} (hp : p ≠ []) (hq : q ≠ []) : 1 ≤ p.length ∧ 1 ≤ q.length :=
  ⟨List.length_pos_iff.2 hp, List.length_pos_iff.2 hq⟩

/-- Settles O37: Horner's rule gives the value of the polynomial. -/
theorem pevalIsPolynomialValue : Obligations.PevalIsPolynomialValue := by
  intro s rd rt vs h
  rw [← h.polyEval_eq]
  exact ⟨fun hne => ⟨_, (h.runCommand_require _).trans (runCommand_require_pos s (List.length_pos_iff.2 hne) _ _),
      scalarWritten_complete s rd _⟩,
    fun he => ⟨_, (h.runCommand_require _).trans (runCommand_require_neg s (by simp [he]) _ _),
      failedWith_complete s _⟩⟩

/-- PMUL of non-empty operands: its product is written when it fits (R171). -/
theorem exec_pmul {s : State} (h : s.FieldReady) (vd : VReg) {vs vt : VReg} (hs : s.v[vs] ≠ []) (ht : s.v[vt] ≠ []) :
    exec (.pmul vd vs vt) s =
      if (polyMul s.tables s.v[vs] s.v[vt]).length ≤ Config.vcap then
        .next ((s.setV vd (polyMul s.tables s.v[vs] s.v[vt])).complete .ok 0)
      else .next (s.complete (.failure .capacityExceeded) 0) := by
  exact (h.runCommand_require _).trans
    ((runCommand_require_pos s (both_nonempty hs ht) _ _).trans (runCommand_require s _ _ _))

/-- Settles O38: the product is the convolution, and it fits unless both operands are nonzero and too long. -/
theorem pmulIsPolynomialProduct : Obligations.PmulIsPolynomialProduct := by
  intro s vd vs vt h
  refine ⟨fun hs ht hfit => ?_, fun hs ht hsz htz hlong => ?_, fun he => ?_⟩
  · have hlen : (polyMul s.tables s.v[vs] s.v[vt]).length ≤ Config.vcap := by
      obtain hz | hsmall := or_assoc.2 hfit
      · rw [h.polyMul_of_zeroPoly hs ht hz]; decide
      · exact (length_polyMul_le_polyTrim _ hs ht).trans (Nat.sub_le_of_le_add hsmall)
    exact ⟨_, _, (exec_pmul h vd hs ht).trans (if_pos hlen), vectorWritten_complete s vd _, canonical_polyMul _ hs ht,
      h.coeff_polyMul _ _⟩
  · have hlen : ¬ (polyMul s.tables s.v[vs] s.v[vt]).length ≤ Config.vcap := by
      rw [h.length_polyMul hs ht hsz htz, Config.vcap]
      omega
    exact ⟨_, (exec_pmul h vd hs ht).trans (if_neg hlen), failedWith_complete s _⟩
  · exact ⟨_, (h.runCommand_require _).trans (runCommand_require_neg s (not_both_nonempty he) _ _),
      failedWith_complete s _⟩

/-- A command whose destinations are two different vector registers. -/
theorem twoVectorsWritten_complete (s : State) {vq vr : VReg} (hne : vq ≠ vr) (q r : List Byte) :
    TwoVectorsWritten s (((s.setV vq q).setV vr r).complete .ok 0) vq q vr r where
  first := (setV_read_other _ vr vq r hne).trans (setV_read_same s vq q)
  second := setV_read_same _ vr r
  others i hq hr := (setV_read_other _ vr i r hr).trans (setV_read_other s vq i q hq)
  frame := rfl

/-- PDIVMOD into different registers, up to the checks of its operands (R166, R172). -/
theorem exec_pdivmod {s : State} (h : s.FieldReady) {vq vr : VReg} (hne : vq ≠ vr) (vs vt : VReg) :
    exec (.pdivmod vq vr vs vt) s =
      if 1 ≤ s.v[vs].length ∧ 1 ≤ s.v[vt].length then
        runCommand s (polyDivmod s.tables s.v[vs] s.v[vt] >>= fun qr => done ((s.setV vq qr.1).setV vr qr.2))
      else .next (s.complete (.failure .invalidParameters) 0) :=
  (runCommand_require_pos s hne _ _).trans ((h.runCommand_require _).trans (runCommand_require s _ _ _))

/-- Settles O39: the checks decide the failures, and the loop of the long division keeps the dividend as
`q·d` plus what is left. -/
theorem pdivmodDividesWithRemainder : Obligations.PdivmodDividesWithRemainder := by
  intro s vq vr vs vt h hne
  have hexec := exec_pdivmod h hne vs vt
  refine ⟨fun hs ht htz => ?_, fun hbad => ?_⟩
  · obtain ⟨c, hlast, hc⟩ := exists_getLast?_polyTrim ht htz
    obtain ⟨hq, hr, hdeg, hsum⟩ := h.isQuotRem_divTrimmed (canonical_polyTrim hs) hlast hc
    rw [if_pos (both_nonempty hs ht), polyDivmod_of_not_zeroPoly _ _ ht htz, ok_bind, runCommand_done] at hexec
    simp only [coeff_polyTrim, convCoeff_polyTrim_right] at hsum
    exact ⟨_, _, _, hexec, twoVectorsWritten_complete s hne _ _, hq, hr, hdeg, hsum⟩
  · refine ⟨_, hexec.trans ?_, failedWith_complete s _⟩
    by_cases he : s.v[vs] = [] ∨ s.v[vt] = []
    · exact if_neg (not_both_nonempty he)
    · obtain ⟨hs, ht⟩ := not_or.1 he
      have htz : ZeroPoly s.v[vt] := (or_assoc.2 hbad).resolve_left he
      rw [if_pos (both_nonempty hs ht), polyDivmod_of_zeroPoly _ _ ht htz, error_bind, runCommand_error]

/-- Settles O40: what trimming does to a list. -/
theorem ptrimGivesCanonicalForm : Obligations.PtrimGivesCanonicalForm := fun s vd vs =>
  ⟨fun hne => ⟨_, _, runCommand_require_pos s (List.length_pos_iff.2 hne) _ _, vectorWritten_complete s vd _,
      canonical_polyTrim hne, polyTrim_append _⟩,
    fun he => ⟨_, runCommand_require_neg s (by simp [he]) _ _, failedWith_complete s _⟩⟩

end Sys2Proof.Machine

namespace Sys2Proof.Machine

/-! ### Values of polynomials

The value at a point respects sums and products, so a polynomial whose coefficients are those of a product has the roots
of both factors. -/

theorem polyValue_of_zeroPoly (poly : BitVec 9) {p : List Byte} (hp : ZeroPoly p) (x : Byte) : polyValue poly p x = 0 :=
  xorSum_eq_zero fun a ha => by
    obtain ⟨i, -, rfl⟩ := List.mem_map.1 ha
    rw [zeroPoly_iff_coeff.1 hp, gfMulx_zero_left]

/-- The value depends on the coefficients only, not on zeros at the end of the list. -/
theorem polyValue_congr {poly : BitVec 9} {p q : List Byte} (hpq : ∀ k, coeff p k = coeff q k) (x : Byte) :
    polyValue poly p x = polyValue poly q x := by
  induction p generalizing q with
  | nil => rw [polyValue_of_zeroPoly poly (p := q) (zeroPoly_iff_coeff.2 fun k => (hpq k).symm)]; rfl
  | cons a p ih =>
    cases q with
    | nil => exact polyValue_of_zeroPoly poly (zeroPoly_iff_coeff.2 hpq) x
    | cons b q =>
      obtain rfl : a = b := hpq 0
      rw [polyValue_cons, polyValue_cons, ih fun k => hpq (k + 1)]

theorem polyValue_polyAdd (poly : BitVec 9) (p q : List Byte) (x : Byte) :
    polyValue poly (polyAdd p q) x = polyValue poly p x ^^^ polyValue poly q x := by
  induction p generalizing q with
  | nil => exact BitVec.zero_xor.symm
  | cons a p ih =>
    cases q with
    | nil => exact BitVec.xor_zero.symm
    | cons b q =>
      rw [polyAdd, gfAdd, polyValue_cons, polyValue_cons, polyValue_cons, ih, gfMulx_xor_left]
      ac_rfl

/-- The value of a polynomial that is a sum, coefficient by coefficient. -/
theorem polyValue_of_coeff_xor {poly : BitVec 9} {r p q : List Byte} (h : ∀ k, coeff r k = coeff p k ^^^ coeff q k)
    (x : Byte) : polyValue poly r x = polyValue poly p x ^^^ polyValue poly q x := by
  rw [← polyValue_polyAdd]
  exact polyValue_congr (fun k => (h k).trans (coeff_polyAdd p q k).symm) x

theorem polyValue_map_gfMulx (poly : BitVec 9) (c : Byte) (p : List Byte) (x : Byte) :
    polyValue poly (p.map (gfMulx poly c)) x = gfMulx poly c (polyValue poly p x) := by
  induction p with
  | nil => exact (gfMulx_zero_right poly c).symm
  | cons a p ih => rw [List.map_cons, polyValue_cons, ih, polyValue_cons, gfMulx_xor_right, gfMulx_assoc]

theorem State.FieldReady.polyValue_polyConv {s : State} (h : s.FieldReady) (p q : List Byte) (x : Byte) :
    polyValue s.fieldPoly (polyConv s.tables p q) x =
      gfMulx s.fieldPoly (polyValue s.fieldPoly p x) (polyValue s.fieldPoly q x) := by
  induction p with
  | nil => exact (gfMulx_zero_left s.fieldPoly _).symm
  | cons a p ih =>
    have hcons : polyValue s.fieldPoly (0 :: polyConv s.tables p q) x =
        gfMulx s.fieldPoly (polyValue s.fieldPoly (polyConv s.tables p q) x) x :=
      (polyValue_cons _ _ _ _).trans BitVec.zero_xor
    rw [polyValue_of_coeff_xor (coeff_polyConv_cons s.tables a p q) x, h.polyScale_eq, polyValue_map_gfMulx, hcons, ih,
      polyValue_cons, gfMulx_xor_left, gfMulx_right_comm]

/-- The value of a polynomial that is a product, coefficient by coefficient. -/
theorem State.FieldReady.polyValue_of_convCoeff {s : State} (h : s.FieldReady) {r p q : List Byte}
    (hr : ∀ k, coeff r k = convCoeff s.fieldPoly p q k) (x : Byte) :
    polyValue s.fieldPoly r x = gfMulx s.fieldPoly (polyValue s.fieldPoly p x) (polyValue s.fieldPoly q x) := by
  rw [← h.polyValue_polyConv]
  exact polyValue_congr (fun k => (hr k).trans (h.coeff_polyConv p q k).symm) x

theorem State.FieldReady.polyValue_polyMul {s : State} (h : s.FieldReady) (p q : List Byte) (x : Byte) :
    polyValue s.fieldPoly (polyMul s.tables p q) x =
      gfMulx s.fieldPoly (polyValue s.fieldPoly p x) (polyValue s.fieldPoly q x) :=
  h.polyValue_of_convCoeff (h.coeff_polyMul p q) x

/-! ### The generator polynomial (44_rs_encode.md R180) -/

/-- The factor `x - c`. -/
theorem polyValue_linear (poly : BitVec 9) (c x : Byte) : polyValue poly [c, 1] x = c ^^^ x := by
  have hone : polyValue poly [1] x = 1 := by
    rw [polyValue_cons, polyValue_of_zeroPoly poly (p := []) (by simp [ZeroPoly]), gfMulx_zero_left]
    rfl
  rw [polyValue_cons, hone, gfMulx_one_left]

/-- A product of monic polynomials is not trimmed: its leading coefficient is 1. -/
theorem State.FieldReady.monic_polyMul {s : State} (h : s.FieldReady) {p q : List Byte} (hp : p.getLast? = some 1)
    (hq : q.getLast? = some 1) :
    (polyMul s.tables p q).getLast? = some 1 ∧ (polyMul s.tables p q).length = p.length + q.length - 1 := by
  have hlast : (polyConv s.tables p q).getLast? = some 1 := by
    rw [getLast?_polyConv _ hp hq, h.gfMul_eq, gfMulx_one_left]
  have hone : (1 : Byte) ≠ 0 := by decide
  rw [polyMul, polyTrim_of_getLast hp hone, polyTrim_of_getLast hq hone, polyTrim_of_getLast hlast hone]
  exact ⟨hlast, length_polyConv _ (by rintro rfl; simp at hp) (by rintro rfl; simp at hq)⟩

theorem rsGenerator_succ (t : FieldTables) (gen : Byte) (r : Nat) :
    rsGenerator t gen (r + 1) = polyMul t (rsGenerator t gen r) [gfPow t gen r, 1] := by
  rw [rsGenerator, List.range_succ, List.foldl_append]
  rfl

/-- The generator polynomial is monic of degree r. -/
theorem State.FieldReady.monic_rsGenerator {s : State} (h : s.FieldReady) (r : Nat) :
    (rsGenerator s.tables s.fieldGen r).getLast? = some 1 ∧ (rsGenerator s.tables s.fieldGen r).length = r + 1 := by
  induction r with
  | zero => exact ⟨rfl, rfl⟩
  | succ r ih =>
    obtain ⟨hlast, hlen⟩ := ih
    rw [rsGenerator_succ]
    obtain ⟨hlast', hlen'⟩ := h.monic_polyMul hlast (q := [gfPow s.tables s.fieldGen r, 1]) rfl
    exact ⟨hlast', by rw [hlen', hlen]; rfl⟩

/-- The roots of the generator polynomial: the factor of index i has the root `α^i`. -/
theorem State.FieldReady.polyValue_rsGenerator {s : State} (h : s.FieldReady) {r i : Nat} (hi : i < r) :
    polyValue s.fieldPoly (rsGenerator s.tables s.fieldGen r) (s.alpha i) = 0 := by
  induction r with
  | zero => omega
  | succ r ih =>
    rw [rsGenerator_succ, h.polyValue_polyMul, polyValue_linear, h.gfPow_eq]
    obtain hlt | rfl := Nat.lt_succ_iff_lt_or_eq.1 hi
    · rw [ih hlt, gfMulx_zero_left]
    · rw [State.alpha, BitVec.xor_self]
      exact gfMulx_zero_right _ _

/-! ### The systematic encoder (R182) -/

/-- Padding a polynomial of degree below r does not change it. -/
theorem coeff_padTo {r : Nat} {p : List Byte} (hp : ∀ k, r ≤ k → coeff p k = 0) (k : Nat) :
    coeff (padTo r p) k = coeff p k := by
  rw [padTo, coeff_take]
  split
  · by_cases hk : k < p.length
    · exact coeff_append_left _ hk
    · have hle := Nat.le_of_not_lt hk
      rw [coeff_append_right _ hle, coeff_replicate_zero, coeff_eq_zero_of_length_le hle]
  · rename_i hk
    exact (hp k (Nat.le_of_not_lt hk)).symm

/-- The word polynomial of a codeword: the data times x^r, plus the remainder. -/
theorem coeff_reverse_append_parity {r : Nat} {rem : List Byte} (hrem : ∀ k, r ≤ k → coeff rem k = 0)
    (data : List Byte) (k : Nat) :
    coeff (data ++ (padTo r rem).reverse).reverse k =
      coeff (List.replicate r 0 ++ data.reverse) k ^^^ coeff rem k := by
  rw [List.reverse_append, List.reverse_reverse, coeff_replicate_append]
  split
  · rename_i hk
    rw [coeff_append_left _ (by simpa using hk), coeff_padTo hrem]
    exact BitVec.zero_xor.symm
  · rename_i hk
    have hle := Nat.le_of_not_lt hk
    rw [coeff_append_right _ (by simpa using hle), length_padTo, hrem k hle]
    exact BitVec.xor_zero.symm

/-- A remainder has no coefficient from the divisor's degree on. -/
theorem IsQuotRem.coeff_remainder {poly : BitVec 9} {p d q rem : List Byte} {n : Nat} (h : IsQuotRem poly p d q rem)
    (hd : d.length = n + 1) {k : Nat} (hk : n ≤ k) : coeff rem k = 0 := by
  obtain rfl | hlen := h.degree
  · exact coeff_replicate_zero 1 k
  · exact coeff_eq_zero_of_length_le (by omega)

/-- An encoded word is a multiple of the generator polynomial. -/
theorem State.FieldReady.exists_multiple_rsEncodeWord {s : State} (h : s.FieldReady) {data : List Byte}
    (hdata : data ≠ []) (r : Nat) :
    ∃ q, ∀ k, coeff (rsEncodeWord s.tables s.fieldGen data r).reverse k =
      convCoeff s.fieldPoly q (rsGenerator s.tables s.fieldGen r) k := by
  obtain ⟨hlast, hlen⟩ := h.monic_rsGenerator r
  have hone : (1 : Byte) ≠ 0 := by decide
  have hm : List.replicate r 0 ++ data.reverse ≠ [] := by simp [hdata]
  have hdiv := h.isQuotRem_divTrimmed (canonical_polyTrim hm) hlast hone
  refine ⟨(divTrimmed s.tables (polyTrim (List.replicate r 0 ++ data.reverse)) (rsGenerator s.tables s.fieldGen r)).1,
    fun k => ?_⟩
  rw [rsEncodeWord, polyTrim_of_getLast hlast hone,
    coeff_reverse_append_parity (fun k => hdiv.coeff_remainder hlen), ← coeff_polyTrim, hdiv.sum, xor_xor_self_right]

/-- An encoded word is a codeword: the generator polynomial divides it (R185). -/
theorem State.FieldReady.isCodeword_rsEncodeWord {s : State} (h : s.FieldReady) {data : List Byte} (hdata : data ≠ [])
    (r : Nat) : s.IsCodeword r (rsEncodeWord s.tables s.fieldGen data r) := fun j hj => by
  obtain ⟨q, hq⟩ := h.exists_multiple_rsEncodeWord hdata r
  rw [h.polyValue_of_convCoeff hq, h.polyValue_rsGenerator hj, gfMulx_zero_right]

theorem take_rsEncodeWord (t : FieldTables) (gen : Byte) (data : List Byte) (r : Nat) :
    (rsEncodeWord t gen data r).take data.length = data :=
  List.take_left

/-! ### The commands (R183, R184) -/

/-- Settles O41: the generator polynomial is a product of monic factors, and each factor brings its root. -/
theorem rsgenHasConsecutiveRoots : Obligations.RsgenHasConsecutiveRoots := by
  intro s vd rt h hr
  obtain ⟨hlast, hlen⟩ := h.monic_rsGenerator s.x[rt].toNat
  have hlead := coeff_of_getLast? hlast
  rw [hlen, Nat.add_sub_cancel] at hlead
  exact ⟨_, _, (h.runCommand_require _).trans (runCommand_require_pos s hr _ _), vectorWritten_complete s vd _, hlen,
    hlead, fun i hi => h.polyValue_rsGenerator hi⟩

/-- Settles O42: the encoded word is a multiple of the generator polynomial. -/
theorem rsencGivesCodeword : Obligations.RsencGivesCodeword := by
  intro s vd vs rt h hk hn
  exact ⟨_, _, (h.runCommand_require _).trans (runCommand_require_pos s ⟨hk, hn⟩ _ _), vectorWritten_complete s vd _,
    length_rsEncodeWord _ _ _ _, take_rsEncodeWord _ _ _ _, h.isCodeword_rsEncodeWord (List.length_pos_iff.1 hk) _⟩

/-! ### The parameter checks (R181, 45_rs_decode.md R200, R204) -/

/-- The decoder's first check: `r < n ≤ 255` (45_rs_decode.md R191). -/
theorem rsDecode_of_bad_lengths (t : FieldTables) (gen : Byte) {recv : List Byte} {r : Nat} (erased : List Byte)
    (h : ¬ (r < recv.length ∧ recv.length ≤ 255)) : rsDecode t gen recv r erased = .error .invalidParameters := by
  have hnot : ¬ (r < recv.length ∧ recv.length ≤ Config.nMax) := h
  simp only [rsDecode, require_neg hnot, error_bind]

/-- The decoder's check of the erasure positions (R204). -/
theorem rsDecode_of_bad_erasures (t : FieldTables) (gen : Byte) {recv erased : List Byte} {r : Nat}
    (hn : r < recv.length ∧ recv.length ≤ 255) (h : ¬ LegalErasures recv.length erased) :
    rsDecode t gen recv r erased = .error .invalidParameters := by
  have hpos : r < recv.length ∧ recv.length ≤ Config.nMax := hn
  rw [LegalErasures] at h
  simp only [rsDecode, require_pos hpos, ok_bind, require_neg h, error_bind]

/-- More erasures than parity symbols (R201, row 3). -/
theorem rsDecode_of_excess_erasures (t : FieldTables) (gen : Byte) {recv erased : List Byte} {r : Nat}
    (hn : r < recv.length ∧ recv.length ≤ 255) (hlegal : LegalErasures recv.length erased) (h : r < erased.length) :
    rsDecode t gen recv r erased = .error .erasureLimitExceeded := by
  have hpos : r < recv.length ∧ recv.length ≤ Config.nMax := hn
  rw [LegalErasures] at hlegal
  simp only [rsDecode, require_pos hpos, ok_bind, require_pos hlegal, require_neg (Nat.not_le.2 h), error_bind]

theorem rsdec_refused {s : State} (hready : s.status.frdy = true) (vd : VReg) {vs : VReg} {rt : XReg} {f : Failure}
    (h : rsDecode s.tables s.fieldGen s.v[vs] s.x[rt].toNat [] = .error f) :
    ∃ t, exec (.rsdec vd vs rt) s = .next t ∧ FailedWith s t f := by
  refine ⟨_, (runCommand_require_pos s hready _ _).trans ?_, failedWith_complete s f⟩
  rw [State.natOf, h, error_bind, runCommand_error]

theorem rsdece_refused {s : State} (hready : s.status.frdy = true) (vd : VReg) {vs ve : VReg} {rt : XReg} {f : Failure}
    (h : rsDecode s.tables s.fieldGen s.v[vs] s.x[rt].toNat s.v[ve] = .error f) :
    ∃ t, exec (.rsdece vd vs rt ve) s = .next t ∧ FailedWith s t f := by
  refine ⟨_, (runCommand_require_pos s hready _ _).trans ?_, failedWith_complete s f⟩
  rw [State.natOf, h, error_bind, runCommand_error]

/-- Settles O51: RSGEN, RSENC and RSSYN check their parameters themselves, RSDEC and RSDECE through the decoder. -/
theorem reedSolomonParameterChecks : Obligations.ReedSolomonParameterChecks := by
  intro s vd vs ve rt hready
  have failed := failedWith_complete s .invalidParameters
  have pass := fun k => runCommand_require_pos s hready .notInitialized k
  refine ⟨fun hr => ⟨_, (pass _).trans (runCommand_require_neg s (Nat.not_le.2 hr) _ _), failed⟩,
    fun hbad => ⟨_, (pass _).trans (runCommand_require_neg s hbad _ _), failed⟩,
    fun hbad => ⟨⟨_, (pass _).trans (runCommand_require_neg s hbad _ _), failed⟩, ?_, ?_⟩,
    fun hlt hle => ⟨fun hbad => ?_, fun hlegal hexcess => ?_⟩⟩
  · exact rsdec_refused hready vd (rsDecode_of_bad_lengths _ _ _ hbad)
  · exact rsdece_refused hready vd (rsDecode_of_bad_lengths _ _ _ hbad)
  · exact rsdece_refused hready vd (rsDecode_of_bad_erasures _ _ ⟨hlt, hle⟩ hbad)
  · exact rsdece_refused hready vd (rsDecode_of_excess_erasures _ _ ⟨hlt, hle⟩ hlegal hexcess)

end Sys2Proof.Machine

namespace Sys2Proof.Machine

/-! ### The step functions of the decoder in a ready state (45_rs_decode.md R192, R194, R195) -/

theorem State.FieldReady.coeff_rsSyndromes {s : State} (h : s.FieldReady) (recv : List Byte) {r j : Nat} (hj : j < r) :
    coeff (rsSyndromes s.tables s.fieldGen recv r) j = polyValue s.fieldPoly recv.reverse (s.alpha j) := by
  rw [coeff, List.getD_eq_getElem _ _ (by rwa [length_rsSyndromes])]
  simp only [rsSyndromes, List.getElem_map, List.getElem_range, h.polyEval_eq, h.gfPow_eq, State.alpha]

/-- The syndromes are all 0 exactly for a codeword (R203). -/
theorem State.FieldReady.rsSyndromes_eq_zero_iff {s : State} (h : s.FieldReady) (recv : List Byte) (r : Nat) :
    (∀ c ∈ rsSyndromes s.tables s.fieldGen recv r, c = 0) ↔ s.IsCodeword r recv := by
  simp only [rsSyndromes, List.forall_mem_map, List.mem_range, h.polyEval_eq, h.gfPow_eq, State.IsCodeword, State.alpha]

/-- The evaluator is the product of its operands, cut at the number of syndromes (R194). -/
theorem State.FieldReady.coeff_rsEvaluator {s : State} (h : s.FieldReady) (syn psi : List Byte) (k : Nat) :
    coeff (rsEvaluator s.tables syn psi) k = if k < syn.length then convCoeff s.fieldPoly syn psi k else 0 := by
  by_cases hsyn : syn = []
  · simpa [rsEvaluator, hsyn] using coeff_replicate_zero 1 k
  · rw [rsEvaluator, if_neg hsyn, coeff_polyTrim, coeff_take, h.coeff_polyConv]

theorem canonical_rsEvaluator (t : FieldTables) (syn : List Byte) {psi : List Byte} (hpsi : psi ≠ []) :
    Canonical (rsEvaluator t syn psi) := by
  by_cases hsyn : syn = []
  · exact .inl (if_pos hsyn)
  · rw [rsEvaluator, if_neg hsyn]
    refine canonical_polyTrim ?_
    simp [hsyn, polyConv_ne_nil t hsyn hpsi]

/-- The inverse of the locator `α^d` is `α^(255-d)`. -/
theorem State.FieldReady.locatorInverse_eq {s : State} (h : s.FieldReady) (d : Nat) :
    locatorInverse s.tables d = s.alpha (255 - d) := by
  rw [locatorInverse, h.alogAt_eq (by omega), h.generatorOk.alpha_mod]

/-- The search tests each degree below 255 once (R195). -/
theorem State.FieldReady.mem_rsChien {s : State} (h : s.FieldReady) {lam : List Byte} {d : Nat} :
    d ∈ rsChien s.tables lam ↔ d < 255 ∧ polyValue s.fieldPoly lam (s.alpha (255 - d)) = 0 := by
  simp only [rsChien, List.mem_filter, List.mem_range, decide_eq_true_eq, h.polyEval_eq, h.locatorInverse_eq]

theorem pairwise_rsChien (t : FieldTables) (lam : List Byte) : (rsChien t lam).Pairwise (· < ·) :=
  List.Pairwise.filter _ List.pairwise_lt_range

/-! ### The formal derivative and the magnitudes (R196, R197) -/

theorem coeff_derivFrom (i : Nat) (p : List Byte) (k : Nat) :
    coeff (derivFrom i p) k = if (i + k) % 2 = 1 then coeff p k else 0 := by
  induction p generalizing i k with
  | nil => simp [derivFrom]
  | cons c p ih =>
    cases k with
    | zero => rfl
    | succ k => rw [derivFrom, coeff_cons_succ, ih, coeff_cons_succ, Nat.add_right_comm, Nat.add_assoc]

/-- Coefficient k of the derivative in characteristic 2. -/
theorem coeff_polyDeriv (p : List Byte) (k : Nat) :
    coeff (polyDeriv p) k = if k % 2 = 0 then coeff p (k + 1) else 0 := by
  have hfrom : coeff (polyDeriv p) k = coeff (derivFrom 1 p.tail) k := by
    rw [polyDeriv]
    split
    · rename_i hnil
      rw [hnil]
      exact coeff_replicate_zero 1 k
    · rename_i hcons
      rw [hcons]
  have htail : coeff p.tail k = coeff p (k + 1) := by cases p <;> rfl
  have hparity : (1 + k) % 2 = 1 ↔ k % 2 = 0 := by omega
  rw [hfrom, coeff_derivFrom, htail]
  simp only [hparity]

theorem coeff_formalDeriv (p : List Byte) (k : Nat) :
    coeff (formalDeriv p) k = if k % 2 = 0 then coeff p (k + 1) else 0 := by
  by_cases hk : k < p.length - 1
  · rw [coeff, List.getD_eq_getElem _ _ (by simpa [formalDeriv] using hk)]
    simp [formalDeriv]
  · have hp : coeff p (k + 1) = 0 := coeff_eq_zero_of_length_le (by omega)
    rw [hp, ite_self, coeff_eq_zero_of_length_le (by simpa [formalDeriv] using hk)]

theorem State.FieldReady.polyEval_polyDeriv {s : State} (h : s.FieldReady) (p : List Byte) (x : Byte) :
    polyEval s.tables (polyDeriv p) x = polyValue s.fieldPoly (formalDeriv p) x := by
  rw [h.polyEval_eq]
  exact polyValue_congr (fun k => (coeff_polyDeriv p k).trans (coeff_formalDeriv p k).symm) x

/-- The quotient of R197, the denominator being nonzero. -/
def forneyMagnitude (t : FieldTables) (om psi : List Byte) (d : Nat) : Byte :=
  gfMul t (alogAt t d) (gfMul t (polyEval t om (locatorInverse t d))
    (gfInvNonzero t (polyEval t (polyDeriv psi) (locatorInverse t d))))

theorem State.FieldReady.rsMagnitude_of_ne_zero {s : State} (h : s.FieldReady) (om : List Byte) {psi : List Byte}
    {d : Nat} (hden : polyValue s.fieldPoly (formalDeriv psi) (s.alpha (255 - d)) ≠ 0) :
    rsMagnitude s.tables om psi d = .ok (forneyMagnitude s.tables om psi d) := by
  rw [← h.polyEval_polyDeriv, ← h.locatorInverse_eq] at hden
  simp only [rsMagnitude, gfDiv_of_ne_zero _ _ hden, ok_bind, return_ok, forneyMagnitude]

theorem State.FieldReady.rsMagnitude_of_eq_zero {s : State} (h : s.FieldReady) (om : List Byte) {psi : List Byte}
    {d : Nat} (hden : polyValue s.fieldPoly (formalDeriv psi) (s.alpha (255 - d)) = 0) :
    rsMagnitude s.tables om psi d = .error .divisionByZero := by
  rw [← h.polyEval_polyDeriv, ← h.locatorInverse_eq] at hden
  simp only [rsMagnitude, hden, gfDiv_zero, error_bind]

/-- The magnitude times its denominator. -/
theorem State.FieldReady.forneyMagnitude_spec {s : State} (h : s.FieldReady) (om : List Byte) {psi : List Byte}
    {d : Nat} (hd : d ≤ 254) (hden : polyValue s.fieldPoly (formalDeriv psi) (s.alpha (255 - d)) ≠ 0) :
    gfMulx s.fieldPoly (forneyMagnitude s.tables om psi d)
        (polyValue s.fieldPoly (formalDeriv psi) (s.alpha (255 - d))) =
      gfMulx s.fieldPoly (s.alpha d) (polyValue s.fieldPoly om (s.alpha (255 - d))) := by
  rw [forneyMagnitude, h.polyEval_polyDeriv, h.polyEval_eq, h.locatorInverse_eq, h.alogAt_eq (by omega), h.gfMul_eq,
    gfMulx_assoc, h.gfMulx_quotient _ hden]

/-- When every location has a magnitude, they are the result, in order. -/
theorem rsForney_eq_map {t : FieldTables} {om psi : List Byte} {locs : List Nat} {mag : Nat → Byte}
    (h : ∀ d ∈ locs, rsMagnitude t om psi d = .ok (mag d)) : rsForney t om psi locs = .ok (locs.map mag) := by
  induction locs with
  | nil => rfl
  | cons d ds ih =>
    obtain ⟨hd, hds⟩ := List.forall_mem_cons.1 h
    rw [rsForney, hd, ok_bind, ih hds]
    rfl

/-- One zero denominator fails the whole: no other failure can come before it. -/
theorem rsForney_of_zero {t : FieldTables} {om psi : List Byte} {locs : List Nat} {d : Nat} (hd : d ∈ locs)
    (h : rsMagnitude t om psi d = .error .divisionByZero) : rsForney t om psi locs = .error .divisionByZero := by
  cases hrun : rsForney t om psi locs with
  | error f => rw [List.mem_singleton.1 (raises_rsForney t om psi locs f hrun)]
  | ok mags =>
    exfalso
    induction locs generalizing mags with
    | nil => simp at hd
    | cons e es ih =>
      obtain ⟨m, hm, hrest⟩ := bind_ok_inv hrun
      obtain ⟨ms, hms, -⟩ := bind_ok_inv hrest
      obtain rfl | htail := List.mem_cons.1 hd
      · rw [h] at hm
        cases hm
      · exact ih htail ms hms

/-! ### The commands RSSYN, RSEVAL, RSCHIEN, RSFORN (R210, R212 to R214) -/

/-- A command whose destinations are a vector register and a scalar register. -/
theorem vectorAndScalarWritten_complete (s : State) (vd : VReg) (bs : List Byte) (rc : XReg) (w : Word) :
    VectorAndScalarWritten s (((s.setV vd bs).setX rc w).complete .ok 0) vd bs rc w where
  content := setV_read_same s vd bs
  otherVectors r hr := setV_read_other s vd r bs hr
  value := setX_read_same _ rc w
  otherScalars r hr := setX_read_other _ rc r w hr
  frame := rfl

/-- Settles O43: the syndromes are values of the word polynomial. -/
theorem rssynEvaluatesAtRoots : Obligations.RssynEvaluatesAtRoots := fun s vd _ _ h hlt hle =>
  ⟨_, _, (h.runCommand_require _).trans (runCommand_require_pos s ⟨hlt, hle⟩ _ _), vectorWritten_complete s vd _,
    length_rsSyndromes _ _ _ _, fun _ hj => h.coeff_rsSyndromes _ hj⟩

/-- Settles O45: the evaluator is the cut and trimmed convolution. -/
theorem rsevalIsTruncatedProduct : Obligations.RsevalIsTruncatedProduct := fun s vd _ _ h =>
  ⟨fun hne => ⟨_, _, (h.runCommand_require _).trans (runCommand_require_pos s (List.length_pos_iff.2 hne) _ _),
      vectorWritten_complete s vd _, canonical_rsEvaluator _ _ hne, h.coeff_rsEvaluator _ _⟩,
    fun he => ⟨_, (h.runCommand_require _).trans (runCommand_require_neg s (by simp [he]) _ _),
      failedWith_complete s _⟩⟩

theorem ofNat_toNat_byte (b : Byte) : BitVec.ofNat 8 b.toNat = b :=
  (BitVec.ofNat_toNat 8 b).trans (BitVec.setWidth_eq b)

/-- The degrees of the search fit a byte, so the bytes keep their order. -/
theorem pairwise_rsChien_bytes (t : FieldTables) (lam : List Byte) :
    ((rsChien t lam).map (BitVec.ofNat 8)).Pairwise (fun a b => a.toNat < b.toNat) := by
  refine List.pairwise_map.2 ((pairwise_rsChien t lam).imp_of_mem fun {a b} ha hb hab => ?_)
  simp only [rsChien, List.mem_filter, List.mem_range] at ha hb
  rw [BitVec.toNat_ofNat, BitVec.toNat_ofNat, Nat.mod_eq_of_lt (by omega), Nat.mod_eq_of_lt (by omega)]
  exact hab

theorem State.FieldReady.mem_rsChien_bytes {s : State} (h : s.FieldReady) {lam : List Byte} {d : Byte} :
    d ∈ (rsChien s.tables lam).map (BitVec.ofNat 8) ↔
      d.toNat < 255 ∧ polyValue s.fieldPoly lam (s.alpha (255 - d.toNat)) = 0 := by
  rw [← h.mem_rsChien, List.mem_map]
  constructor
  · rintro ⟨n, hn, rfl⟩
    have hlt := (h.mem_rsChien.1 hn).1
    rwa [BitVec.toNat_ofNat, Nat.mod_eq_of_lt (by omega)]
  · exact fun hd => ⟨_, hd, ofNat_toNat_byte d⟩

/-- Settles O46: the search filters the degrees below 255 in ascending order. -/
theorem rschienFindsAllRoots : Obligations.RschienFindsAllRoots := by
  intro s vd vs rc h
  refine ⟨fun hne => ⟨_, (rsChien s.tables s.v[vs]).map (BitVec.ofNat 8),
      (h.runCommand_require _).trans (runCommand_require_pos s (List.length_pos_iff.2 hne) _ _), ?_,
      pairwise_rsChien_bytes _ _, fun d => h.mem_rsChien_bytes⟩,
    fun he => ⟨_, (h.runCommand_require _).trans (runCommand_require_neg s (by simp [he]) _ _),
      failedWith_complete s _⟩⟩
  rw [List.length_map]
  exact vectorAndScalarWritten_complete s vd _ rc _

/-- RSFORN of legal operands is the Forney step (R214). -/
theorem exec_rsforn {s : State} (h : s.FieldReady) (vd : VReg) {vs vt vu : VReg} (hs : s.v[vs] ≠ []) (ht : s.v[vt] ≠ [])
    (hu : ∀ d ∈ s.v[vu], d.toNat ≤ 254) :
    exec (.rsforn vd vs vt vu) s =
      runCommand s (rsForney s.tables s.v[vs] s.v[vt] (s.v[vu].map BitVec.toNat) >>= fun mags =>
        done (s.setV vd mags)) :=
  (h.runCommand_require _).trans
    ((runCommand_require_pos s (both_nonempty hs ht) _ _).trans (runCommand_require_pos s hu _ _))

/-- Settles O47: the checks decide `InvalidParameters`, the denominators between the magnitudes and `DivisionByZero`. -/
theorem rsfornGivesMagnitudes : Obligations.RsfornGivesMagnitudes := by
  intro s vd vs vt vu h
  refine ⟨fun hs ht hu => ?_, fun hbad => ?_, fun hs ht hu hzero => ?_⟩
  · have hexec := exec_rsforn h vd hs ht fun d hd => (hu d hd).1
    have hmags := rsForney_eq_map (t := s.tables) (om := s.v[vs]) (psi := s.v[vt]) (locs := s.v[vu].map BitVec.toNat)
      (List.forall_mem_map.2 fun d hd => h.rsMagnitude_of_ne_zero s.v[vs] (hu d hd).2)
    rw [hmags, ok_bind, runCommand_done, List.map_map] at hexec
    refine ⟨_, _, hexec, vectorWritten_complete s vd _, List.length_map _, fun j hj => ?_⟩
    rw [List.length_map] at hj
    have hmem : coeff s.v[vu] j ∈ s.v[vu] := by
      rw [coeff, List.getD_eq_getElem _ _ hj]
      exact List.getElem_mem hj
    have hget : coeff (s.v[vu].map (forneyMagnitude s.tables s.v[vs] s.v[vt] ∘ BitVec.toNat)) j =
        forneyMagnitude s.tables s.v[vs] s.v[vt] (coeff s.v[vu] j).toNat := by
      rw [coeff, List.getD_eq_getElem _ _ (by rwa [List.length_map]), List.getElem_map, coeff,
        List.getD_eq_getElem _ _ hj]
      rfl
    rw [hget]
    exact h.forneyMagnitude_spec s.v[vs] (hu _ hmem).1 (hu _ hmem).2
  · refine ⟨_, (h.runCommand_require _).trans ?_, failedWith_complete s _⟩
    by_cases he : s.v[vs] = [] ∨ s.v[vt] = []
    · exact runCommand_require_neg s (not_both_nonempty he) _ _
    · obtain ⟨hs, ht⟩ := not_or.1 he
      obtain ⟨d, hd, hlarge⟩ := (or_assoc.2 hbad).resolve_left he
      exact (runCommand_require_pos s (both_nonempty hs ht) _ _).trans
        (runCommand_require_neg s (fun hall => absurd (hall d hd) (Nat.not_le.2 hlarge)) _ _)
  · obtain ⟨d, hd, hden⟩ := hzero
    have hexec := exec_rsforn h vd hs ht hu
    rw [rsForney_of_zero (List.mem_map_of_mem hd) (h.rsMagnitude_of_eq_zero _ hden), error_bind,
      runCommand_error] at hexec
    exact ⟨_, hexec, failedWith_complete s _⟩

/-! ### Soundness of the decoder (R202) -/

theorem coeff_eraseAll {recv erased : List Byte} {i : Nat} (h : ∀ p ∈ erased, p.toNat ≠ i) :
    coeff (eraseAll recv erased) i = coeff recv i := by
  unfold eraseAll
  induction erased generalizing recv with
  | nil => rfl
  | cons p ps ih =>
    obtain ⟨hp, hps⟩ := List.forall_mem_cons.1 h
    rw [List.foldl_cons, ih hps, coeff_set_other _ hp.symm]

theorem coeff_correctAll_of_not_mem {w : List Byte} {n i : Nat} {errata : List (Nat × Byte)}
    (h : ∀ e ∈ errata, n - 1 - e.1 ≠ i) : coeff (correctAll w n errata) i = coeff w i := by
  unfold correctAll
  induction errata generalizing w with
  | nil => rfl
  | cons e es ih =>
    obtain ⟨he, hes⟩ := List.forall_mem_cons.1 h
    rw [List.foldl_cons, ih hes, coeff_set_other _ he.symm]

theorem toNat_ne_of_not_mem {erased : List Byte} {i : Nat} (h : BitVec.ofNat 8 i ∉ erased) :
    ∀ p ∈ erased, p.toNat ≠ i := by
  rintro p hp rfl
  rw [ofNat_toNat_byte] at h
  exact h hp

/-- A word that is erased and then corrected at some degrees differs from the received one, outside the erasures, only
there. -/
theorem errorCount_correctAll_le {recv erased : List Byte} {roots : List Nat} (mags : List Byte)
    (hlegal : LegalErasures recv.length erased) :
    errorCount recv (correctAll (eraseAll recv erased) recv.length
      ((erased.map (fun p => recv.length - 1 - p.toNat) ++ roots).zip mags)) erased ≤ roots.length := by
  rw [errorCount, ← List.length_map (f := fun d => recv.length - 1 - d) (as := roots)]
  refine (List.subperm_of_subset (List.nodup_range.filter _) fun i hi => ?_).length_le
  simp only [List.mem_filter, List.mem_range, decide_eq_true_eq] at hi
  obtain ⟨hi, hdiff, hnot⟩ := hi
  have hpos := toNat_ne_of_not_mem hnot
  by_contra hroots
  refine hdiff ?_
  rw [coeff_correctAll_of_not_mem, coeff_eraseAll hpos]
  rintro ⟨d, m⟩ hdm hd
  obtain hd' | hd' := List.mem_append.1 (List.of_mem_zip hdm).1
  · obtain ⟨p, hp, rfl⟩ := List.mem_map.1 hd'
    have hlt := hlegal.1 p hp
    exact hpos p hp (by simp only at hd; omega)
  · exact hroots (List.mem_map.2 ⟨d, hd', hd⟩)

/-- A body that succeeds has passed the check it starts with. -/
theorem require_bind_ok_inv {α : Type} {c : Prop} [Decidable c] {f : Failure} {k : Unit → Except Failure α} {b : α}
    (h : (require c f >>= k) = .ok b) : c ∧ k () = .ok b := by
  rw [require_bind] at h
  split at h
  · exact ⟨‹c›, h⟩
  · cases h

/-- Everything a decode that succeeds has done (R200). -/
theorem rsDecode_ok_inv {t : FieldTables} {gen : Byte} {recv : List Byte} {r : Nat} {erased data : List Byte}
    (h : rsDecode t gen recv r erased = .ok data) :
    r < recv.length ∧ recv.length ≤ 255 ∧ LegalErasures recv.length erased ∧
      ∃ (roots : List Nat) (mags fixed : List Byte),
        fixed = correctAll (eraseAll recv erased) recv.length
          ((erased.map (fun p => recv.length - 1 - p.toNat) ++ roots).zip mags) ∧
        erased.length + 2 * roots.length ≤ r ∧ (∀ c ∈ rsSyndromes t gen fixed r, c = 0) ∧
        data = fixed.take (recv.length - r) := by
  obtain ⟨⟨hlt, hle⟩, h⟩ := require_bind_ok_inv h
  obtain ⟨hlegal, h⟩ := require_bind_ok_inv h
  obtain ⟨-, h⟩ := require_bind_ok_inv h
  obtain ⟨hcap, h⟩ := require_bind_ok_inv h
  obtain ⟨hroots, h⟩ := require_bind_ok_inv h
  obtain ⟨-, h⟩ := require_bind_ok_inv h
  obtain ⟨mags, -, h⟩ := bind_ok_inv h
  obtain ⟨hsyn, h⟩ := require_bind_ok_inv h
  rw [← hroots] at hcap
  exact ⟨hlt, hle, hlegal, _, mags, _, rfl, hcap, hsyn, (Except.ok.inj h).symm⟩

/-- A decode that succeeds returns the data of a codeword within capacity of the received word. -/
theorem State.FieldReady.rsDecode_sound {s : State} (h : s.FieldReady) {recv erased data : List Byte} {r : Nat}
    (hok : rsDecode s.tables s.fieldGen recv r erased = .ok data) :
    ∃ c, c.length = recv.length ∧ r < c.length ∧ c.length ≤ 255 ∧ s.IsCodeword r c ∧
      erased.length + 2 * errorCount recv c erased ≤ r ∧ data = c.take (c.length - r) := by
  obtain ⟨hlt, hle, hlegal, roots, mags, fixed, rfl, hcap, hsyn, rfl⟩ := rsDecode_ok_inv hok
  have hlen := length_correctAll (eraseAll recv erased) recv.length
    ((erased.map (fun p => recv.length - 1 - p.toNat) ++ roots).zip mags)
  rw [length_eraseAll] at hlen
  have hcount := errorCount_correctAll_le (roots := roots) mags hlegal
  exact ⟨_, hlen, by omega, by omega, (h.rsSyndromes_eq_zero_iff _ _).1 hsyn, by omega, by rw [hlen]⟩

/-- RSDEC with the tables ready is the decoder without erasures (R215). -/
theorem State.FieldReady.exec_rsdec {s : State} (h : s.FieldReady) (vd vs : VReg) (rt : XReg) :
    exec (.rsdec vd vs rt) s =
      runCommand s (rsDecode s.tables s.fieldGen s.v[vs] s.x[rt].toNat [] >>= fun data => done (s.setV vd data)) :=
  h.runCommand_require _

/-- RSDECE with the tables ready is the decoder with erasures (R216). -/
theorem State.FieldReady.exec_rsdece {s : State} (h : s.FieldReady) (vd vs : VReg) (rt : XReg) (ve : VReg) :
    exec (.rsdece vd vs rt ve) s =
      runCommand s (rsDecode s.tables s.fieldGen s.v[vs] s.x[rt].toNat s.v[ve] >>= fun data =>
        done (s.setV vd data)) :=
  h.runCommand_require _

/-- A command that computes a list and writes it, when it completes `OK`. -/
theorem vectorWritten_of_ok {s t : State} {vd : VReg} {m : Except Failure (List Byte)}
    (h : runCommand s (m >>= fun data => done (s.setV vd data)) = .next t) (hok : t.status.last = .ok) :
    ∃ data, m = .ok data ∧ VectorWritten s t vd data := by
  cases m with
  | error f =>
    rw [error_bind, runCommand_error] at h
    cases h
    exact absurd hok (by simp)
  | ok data =>
    rw [ok_bind, runCommand_done] at h
    cases h
    exact ⟨data, rfl, vectorWritten_complete s vd data⟩

/-- A decode command that completes `OK`. -/
theorem State.FieldReady.decode_sound {s t : State} (h : s.FieldReady) {vd vs : VReg} {rt : XReg} {erased : List Byte}
    (hexec : runCommand s (rsDecode s.tables s.fieldGen s.v[vs] s.x[rt].toNat erased >>= fun data =>
      done (s.setV vd data)) = .next t) (hok : t.status.last = .ok) :
    ∃ c, c.length = s.v[vs].length ∧ s.x[rt].toNat < c.length ∧ c.length ≤ 255 ∧ s.IsCodeword s.x[rt].toNat c ∧
      erased.length + 2 * errorCount s.v[vs] c erased ≤ s.x[rt].toNat ∧
      VectorWritten s t vd (c.take (c.length - s.x[rt].toNat)) := by
  obtain ⟨data, hdata, hwritten⟩ := vectorWritten_of_ok hexec hok
  obtain ⟨c, hlen, hlt, hle, hcode, hcap, rfl⟩ := h.rsDecode_sound hdata
  exact ⟨c, hlen, hlt, hle, hcode, hcap, hwritten⟩

/-- Settles O49: the final check of the decoder makes its word a codeword, and the capacity check bounds the places
where it was changed. -/
theorem decodeIsSound : Obligations.DecodeIsSound := by
  intro s t vd vs ve rt h
  rw [h.exec_rsdec, h.exec_rsdece]
  exact ⟨fun hexec hok => by simpa only [List.length_nil, Nat.zero_add] using h.decode_sound hexec hok, h.decode_sound⟩

end Sys2Proof.Machine

namespace Sys2Proof.Machine

section
open scoped Polynomial
variable {F : Type} [Field F]

/-! ### Recurrences as products of polynomials, over any field

A connection polynomial `P` of length `L` generates element i of a sequence, the coefficients of `S`, from the elements
before it exactly when coefficient i of `P·S` is 0. -/

/-- A coefficient of a product, the degree of the first factor being bounded. -/
theorem coeff_mul_eq_sum_range {P : F[X]} {L i : ℕ} (hP : P.natDegree ≤ L) (hi : L ≤ i) (S : F[X]) :
    (P * S).coeff i = ∑ j ∈ Finset.range (L + 1), P.coeff j * S.coeff (i - j) := by
  rw [Polynomial.coeff_mul, Finset.Nat.sum_antidiagonal_eq_sum_range_succ_mk]
  refine (Finset.sum_subset (Finset.range_mono (by omega)) fun j _ hj => ?_).symm
  have hlt : P.natDegree < j := by simp only [Finset.mem_range] at hj; omega
  rw [Polynomial.coeff_eq_zero_of_natDegree_lt hlt, zero_mul]

/-- `P` is the connection polynomial of a recurrence of length `L` that generates the coefficients `L` to `N - 1`
of `S`. -/
structure Generates (S P : F[X]) (L N : ℕ) : Prop where
  start : P.coeff 0 = 1
  degree : P.natDegree ≤ L
  recurrence : ∀ i, L ≤ i → i < N → (P * S).coeff i = 0

theorem Generates.of_succ {S P : F[X]} {L N : ℕ} (h : Generates S P L (N + 1)) : Generates S P L N :=
  ⟨h.start, h.degree, fun i hi hN => h.recurrence i hi (by omega)⟩

/-- A recurrence that goes on holding. -/
theorem Generates.succ {S P : F[X]} {L N : ℕ} (h : Generates S P L N) (hN : (P * S).coeff N = 0) :
    Generates S P L (N + 1) :=
  ⟨h.start, h.degree, fun i hi hlt => by
    obtain hlt | rfl := Nat.lt_succ_iff_lt_or_eq.1 hlt
    · exact h.recurrence i hi hlt
    · exact hN⟩

/-- Massey's bound: when a recurrence of length L fails at element N, one that does not has a length L' with
`N + 1 ≤ L + L'`. Otherwise coefficient N of `P·Q·S` would be both that of `P·S` and 0. -/
theorem Generates.length_ge {S P Q : F[X]} {L L' N : ℕ} (hP : Generates S P L N) (hfail : (P * S).coeff N ≠ 0)
    (hQ : Generates S Q L' (N + 1)) : N + 1 ≤ L + L' := by
  by_contra hlt
  have hzero : (P * (Q * S)).coeff N = 0 := by
    rw [coeff_mul_eq_sum_range hP.degree (by omega)]
    refine Finset.sum_eq_zero fun j hj => ?_
    rw [Finset.mem_range] at hj
    rw [hQ.recurrence _ (by omega) (by omega), mul_zero]
  have hsame : (Q * (P * S)).coeff N = (P * S).coeff N := by
    rw [coeff_mul_eq_sum_range hQ.degree (by omega), Finset.sum_range_succ', hQ.start, one_mul, Nat.sub_zero,
      Finset.sum_eq_zero, zero_add]
    intro j hj
    rw [Finset.mem_range] at hj
    rw [hP.recurrence _ (by omega) (by omega), mul_zero]
  rw [mul_left_comm] at hzero
  exact hfail (hsame.symm.trans hzero)

/-! ### Locators (45_rs_decode.md R190, R197, R198)

`a d` is the locator of degree d, `e d` the value added to the symbol there, `D` the set of the degrees. -/

/-- The product of the factors `1 - a d·x`. -/
noncomputable def locatorPoly (a : ℕ → F) (D : Finset ℕ) : F[X] := ∏ d ∈ D, (1 - Polynomial.C (a d) * Polynomial.X)

/-- The first `r` coefficients of `S` are syndromes of the errata: `S_j = Σ e_d·a_d^j` (R192). -/
def IsSyndromeOf (S : F[X]) (a e : ℕ → F) (D : Finset ℕ) (r : ℕ) : Prop :=
  ∀ j < r, S.coeff j = ∑ d ∈ D, e d * a d ^ j

variable {a e : ℕ → F} {D : Finset ℕ}

theorem eval_locatorPoly (a : ℕ → F) (D : Finset ℕ) (x : F) :
    (locatorPoly a D).eval x = ∏ d ∈ D, (1 - a d * x) := by
  simp [locatorPoly, Polynomial.eval_prod]

theorem coeff_zero_locatorPoly (a : ℕ → F) (D : Finset ℕ) : (locatorPoly a D).coeff 0 = 1 := by
  simp [Polynomial.coeff_zero_eq_eval_zero, eval_locatorPoly]

theorem natDegree_locatorPoly_le (a : ℕ → F) (D : Finset ℕ) : (locatorPoly a D).natDegree ≤ D.card := by
  refine (Polynomial.natDegree_prod_le _ _).trans ((Finset.sum_le_card_nsmul D _ 1 fun d _ => ?_).trans_eq (mul_one _))
  compute_degree

theorem locatorPoly_union (a : ℕ → F) {A B : Finset ℕ} (h : Disjoint A B) :
    locatorPoly a (A ∪ B) = locatorPoly a A * locatorPoly a B :=
  Finset.prod_union h

theorem locatorPoly_eq_mul_erase (a : ℕ → F) {d : ℕ} (hd : d ∈ D) :
    locatorPoly a D = (1 - Polynomial.C (a d) * Polynomial.X) * locatorPoly a (D.erase d) :=
  (Finset.mul_prod_erase D _ hd).symm

/-- The roots of the locator polynomial are the inverses of the locators. -/
theorem eval_inv_locatorPoly_eq_zero_iff {d : ℕ} (hd : a d ≠ 0) :
    (locatorPoly a D).eval (a d)⁻¹ = 0 ↔ ∃ m ∈ D, a m = a d := by
  simp only [eval_locatorPoly, Finset.prod_eq_zero_iff, sub_eq_zero]
  refine exists_congr fun m => and_congr_right fun _ => ?_
  rw [← div_eq_mul_inv, eq_comm, div_eq_one_iff_eq hd]

/-- Multiplying the syndromes by a polynomial evaluates it at the inverse locators. -/
theorem IsSyndromeOf.coeff_mul {S P : F[X]} {r k : ℕ} (hS : IsSyndromeOf S a e D r) (ha : ∀ d ∈ D, a d ≠ 0)
    (hP : P.natDegree ≤ k) (hk : k < r) :
    (P * S).coeff k = ∑ d ∈ D, e d * a d ^ k * P.eval (a d)⁻¹ := by
  have hterm : ∀ d ∈ D, e d * a d ^ k * P.eval (a d)⁻¹ =
      ∑ j ∈ Finset.range (k + 1), P.coeff j * (e d * a d ^ (k - j)) := by
    intro d hd
    rw [Polynomial.eval_eq_sum_range' (Nat.lt_succ_of_le hP), Finset.mul_sum]
    refine Finset.sum_congr rfl fun j hj => ?_
    rw [pow_sub₀ _ (ha d hd) (Nat.le_of_lt_succ (Finset.mem_range.1 hj)), inv_pow]
    ring
  rw [coeff_mul_eq_sum_range hP le_rfl, Finset.sum_congr rfl hterm, Finset.sum_comm]
  refine Finset.sum_congr rfl fun j hj => ?_
  rw [hS (k - j) (by omega), Finset.mul_sum]

/-! ### The error evaluator and Forney's formula (R194, R197) -/

theorem coeff_geom {c : F} {r k : ℕ} (hk : k < r) :
    (∑ j ∈ Finset.range r, (Polynomial.C c * Polynomial.X) ^ j).coeff k = c ^ k := by
  simp only [mul_pow, ← Polynomial.C_pow, Polynomial.finsetSum_coeff, Polynomial.coeff_C_mul_X_pow]
  rw [Finset.sum_ite_eq, if_pos (Finset.mem_range.2 hk)]

/-- The polynomial `Σ e_d·Π_{m≠d} (1 - a_m·x)`. -/
noncomputable def evaluatorPoly (a e : ℕ → F) (D : Finset ℕ) : F[X] :=
  ∑ d ∈ D, Polynomial.C (e d) * locatorPoly a (D.erase d)

/-- The syndromes as a polynomial: `Σ e_d·Σ_{j<r} (a_d·x)^j`. -/
noncomputable def syndromePoly (a e : ℕ → F) (D : Finset ℕ) (r : ℕ) : F[X] :=
  ∑ d ∈ D, Polynomial.C (e d) * ∑ j ∈ Finset.range r, (Polynomial.C (a d) * Polynomial.X) ^ j

theorem IsSyndromeOf.coeff_eq {S : F[X]} {r k : ℕ} (hS : IsSyndromeOf S a e D r) (hk : k < r) :
    S.coeff k = (syndromePoly a e D r).coeff k := by
  rw [hS k hk, syndromePoly, Polynomial.finsetSum_coeff]
  refine Finset.sum_congr rfl fun d _ => ?_
  rw [Polynomial.coeff_C_mul, coeff_geom hk]

/-- Syndromes times locator are the evaluator up to x^r: `(1 - a_d·x)·Σ_{j<r} (a_d·x)^j = 1 - (a_d·x)^r`. -/
theorem syndromePoly_mul_locatorPoly (a e : ℕ → F) (D : Finset ℕ) (r : ℕ) :
    syndromePoly a e D r * locatorPoly a D = evaluatorPoly a e D -
      (∑ d ∈ D, Polynomial.C (e d * a d ^ r) * locatorPoly a (D.erase d)) * Polynomial.X ^ r := by
  rw [syndromePoly, Finset.sum_mul, Finset.sum_mul, evaluatorPoly, ← Finset.sum_sub_distrib]
  refine Finset.sum_congr rfl fun d hd => ?_
  have hgeom := mul_neg_geom_sum (Polynomial.C (a d) * Polynomial.X) r
  rw [mul_pow, ← Polynomial.C_pow] at hgeom
  rw [locatorPoly_eq_mul_erase a hd, Polynomial.C_mul]
  linear_combination Polynomial.C (e d) * locatorPoly a (D.erase d) * hgeom

theorem IsSyndromeOf.coeff_mul_locatorPoly {S : F[X]} {r k : ℕ} (hS : IsSyndromeOf S a e D r) (hk : k < r) :
    (S * locatorPoly a D).coeff k = (evaluatorPoly a e D).coeff k := by
  have hsame : (S * locatorPoly a D).coeff k = (syndromePoly a e D r * locatorPoly a D).coeff k := by
    rw [Polynomial.coeff_mul, Polynomial.coeff_mul]
    refine Finset.sum_congr rfl fun ij hij => ?_
    rw [hS.coeff_eq ((Finset.HasAntidiagonal.antidiagonal.fst_le hij).trans_lt hk)]
  rw [hsame, syndromePoly_mul_locatorPoly, Polynomial.coeff_sub, Polynomial.coeff_mul_X_pow', if_neg (by omega),
    sub_zero]

theorem coeff_evaluatorPoly_eq_zero {k : ℕ} (hk : D.card ≤ k) : (evaluatorPoly a e D).coeff k = 0 := by
  rw [evaluatorPoly, Polynomial.finsetSum_coeff]
  refine Finset.sum_eq_zero fun d hd => ?_
  have hdeg := natDegree_locatorPoly_le a (D.erase d)
  have hcard := Finset.card_erase_lt_of_mem hd
  rw [Polynomial.coeff_C_mul, Polynomial.coeff_eq_zero_of_natDegree_lt (by omega), mul_zero]

/-- At an inverse locator one term is left. -/
theorem eval_evaluatorPoly {d : ℕ} (hd : d ∈ D) (ha : a d ≠ 0) :
    (evaluatorPoly a e D).eval (a d)⁻¹ = e d * (locatorPoly a (D.erase d)).eval (a d)⁻¹ := by
  rw [evaluatorPoly, Polynomial.eval_finsetSum, Finset.sum_eq_single_of_mem d hd]
  · rw [Polynomial.eval_mul, Polynomial.eval_C]
  · intro m _ hm
    rw [Polynomial.eval_mul, (eval_inv_locatorPoly_eq_zero_iff ha).2 ⟨d, Finset.mem_erase.2 ⟨hm.symm, hd⟩, rfl⟩,
      mul_zero]

theorem eval_derivative_locatorPoly {d : ℕ} (hd : d ∈ D) (ha : a d ≠ 0) :
    (Polynomial.derivative (locatorPoly a D)).eval (a d)⁻¹ = -a d * (locatorPoly a (D.erase d)).eval (a d)⁻¹ := by
  rw [locatorPoly_eq_mul_erase a hd, Polynomial.derivative_mul]
  simp [mul_inv_cancel₀ ha]

/-- The locators of `D` are nonzero and pairwise distinct. -/
structure Locators (a : ℕ → F) (D : Finset ℕ) : Prop where
  ne_zero : ∀ d ∈ D, a d ≠ 0
  inj : ∀ d ∈ D, ∀ m ∈ D, a d = a m → d = m

theorem Locators.mono (h : Locators a D) {D' : Finset ℕ} (hsub : D' ⊆ D) : Locators a D' :=
  ⟨fun d hd => h.ne_zero d (hsub hd), fun d hd m hm => h.inj d (hsub hd) m (hsub hm)⟩

theorem Locators.eval_erase_ne_zero (h : Locators a D) {d : ℕ} (hd : d ∈ D) :
    (locatorPoly a (D.erase d)).eval (a d)⁻¹ ≠ 0 := by
  rw [Ne, eval_inv_locatorPoly_eq_zero_iff (h.ne_zero d hd)]
  rintro ⟨m, hm, hmd⟩
  obtain ⟨hne, hmD⟩ := Finset.mem_erase.1 hm
  exact hne (h.inj m hmD d hd hmd)

/-- The denominator of Forney's formula is not zero. -/
theorem Locators.eval_derivative_ne_zero (h : Locators a D) {d : ℕ} (hd : d ∈ D) :
    (Polynomial.derivative (locatorPoly a D)).eval (a d)⁻¹ ≠ 0 := by
  rw [eval_derivative_locatorPoly hd (h.ne_zero d hd)]
  exact mul_ne_zero (neg_ne_zero.2 (h.ne_zero d hd)) (h.eval_erase_ne_zero hd)

/-- Forney's formula: the quotient is the errata value, up to a sign. -/
theorem Locators.forney (h : Locators a D) {d : ℕ} (hd : d ∈ D) {mag : F}
    (hmag : mag * (Polynomial.derivative (locatorPoly a D)).eval (a d)⁻¹ =
      a d * (evaluatorPoly a e D).eval (a d)⁻¹) : mag = -e d := by
  have ha := h.ne_zero d hd
  rw [eval_derivative_locatorPoly hd ha, eval_evaluatorPoly hd ha] at hmag
  refine mul_right_cancel₀ (mul_ne_zero ha (h.eval_erase_ne_zero hd)) ?_
  linear_combination -hmag

/-! ### The shortest recurrence of the modified syndromes is the error locator (R193, R200)

`A` is the set of the erased degrees, `B` that of the other degrees in error. -/

theorem Locators.card_inverses [DecidableEq F] (h : Locators a D) : (D.image fun d => (a d)⁻¹).card = D.card :=
  Finset.card_image_of_injOn fun d hd m hm hdm => h.inj d hd m hm (inv_injective hdm)

/-- A polynomial with the inverse locators as roots has at least their number as degree. -/
theorem Locators.card_le_natDegree (h : Locators a D) {P : F[X]} (hne : P ≠ 0) (hroots : ∀ d ∈ D, P.eval (a d)⁻¹ = 0) :
    D.card ≤ P.natDegree := by
  classical
  by_contra hlt
  rw [← h.card_inverses, not_le] at hlt
  exact hne (Polynomial.eq_zero_of_natDegree_lt_card_of_eval_eq_zero' P _ (Finset.forall_mem_image.2 hroots) hlt)

/-- The locator polynomial is the one of its degree with constant coefficient 1 and the inverse locators as roots. -/
theorem Locators.eq_locatorPoly (h : Locators a D) {P : F[X]} (hstart : P.coeff 0 = 1) (hdeg : P.natDegree ≤ D.card)
    (hroots : ∀ d ∈ D, P.eval (a d)⁻¹ = 0) : P = locatorPoly a D := by
  classical
  have hzero : (0 : F) ∉ D.image fun d => (a d)⁻¹ := by
    intro hmem
    obtain ⟨d, hd, hinv⟩ := Finset.mem_image.1 hmem
    exact h.ne_zero d hd (inv_eq_zero.1 hinv)
  refine Polynomial.eq_of_natDegree_lt_card_of_eval_eq' _ _ (insert 0 (D.image fun d => (a d)⁻¹)) ?_ ?_
  · refine (Finset.forall_mem_insert _ _ _).2 ⟨?_, Finset.forall_mem_image.2 fun d hd => ?_⟩
    · rw [← Polynomial.coeff_zero_eq_eval_zero, ← Polynomial.coeff_zero_eq_eval_zero, hstart, coeff_zero_locatorPoly]
    · rw [hroots d hd, (eval_inv_locatorPoly_eq_zero_iff (h.ne_zero d hd)).2 ⟨d, hd, rfl⟩]
  · rw [Finset.card_insert_of_notMem hzero, h.card_inverses]
    exact Nat.lt_succ_of_le (max_le hdeg (natDegree_locatorPoly_le a D))

variable {A B : Finset ℕ} {S U : F[X]} {r : ℕ}

/-- Multiplying the modified syndromes, from the element of index e on. -/
theorem coeff_mul_modified (hU : ∀ i < r - A.card, U.coeff i = (locatorPoly a A * S).coeff (A.card + i)) {P : F[X]}
    {L i : ℕ} (hP : P.natDegree ≤ L) (hi : L ≤ i) (hr : i < r - A.card) :
    (P * U).coeff i = (P * locatorPoly a A * S).coeff (A.card + i) := by
  rw [mul_assoc, coeff_mul_eq_sum_range hP hi, coeff_mul_eq_sum_range hP (by omega)]
  refine Finset.sum_congr rfl fun j hj => ?_
  rw [Finset.mem_range] at hj
  rw [hU _ (by omega), Nat.add_sub_assoc (by omega)]

/-- The error locator generates the modified syndromes. -/
theorem generates_locatorPoly (hS : IsSyndromeOf S a e (A ∪ B) r) (ha : ∀ d ∈ A ∪ B, a d ≠ 0) (hAB : Disjoint A B)
    (hU : ∀ i < r - A.card, U.coeff i = (locatorPoly a A * S).coeff (A.card + i)) :
    Generates U (locatorPoly a B) B.card (r - A.card) where
  start := coeff_zero_locatorPoly a B
  degree := natDegree_locatorPoly_le a B
  recurrence i hi hr := by
    have hdeg := natDegree_locatorPoly_le a (A ∪ B)
    rw [Finset.card_union_of_disjoint hAB] at hdeg
    rw [coeff_mul_modified hU (natDegree_locatorPoly_le a B) hi hr, mul_comm (locatorPoly a B),
      ← locatorPoly_union a hAB, hS.coeff_mul ha (by omega) (by omega)]
    refine Finset.sum_eq_zero fun d hd => ?_
    rw [(eval_inv_locatorPoly_eq_zero_iff (ha d hd)).2 ⟨d, hd, rfl⟩, mul_zero]

/-- Every recurrence of the modified syndromes, short enough, has the inverse error locators as roots: multiplied by the
factors of the other errors, it leaves one term of the sum over the errata. -/
theorem Locators.eval_eq_zero_of_generates (h : Locators a (A ∪ B)) (hS : IsSyndromeOf S a e (A ∪ B) r)
    (hAB : Disjoint A B) (he : ∀ d ∈ B, e d ≠ 0)
    (hU : ∀ i < r - A.card, U.coeff i = (locatorPoly a A * S).coeff (A.card + i)) {P : F[X]} {L : ℕ}
    (hP : Generates U P L (r - A.card)) (hL : L + B.card ≤ r - A.card) {d : ℕ} (hd : d ∈ B) :
    P.eval (a d)⁻¹ = 0 := by
  have hdU : d ∈ A ∪ B := Finset.mem_union_right A hd
  have hcard : (B.erase d).card + 1 = B.card := Finset.card_erase_add_one hd
  have hdegQ := natDegree_locatorPoly_le a (B.erase d)
  have hdegA := natDegree_locatorPoly_le a A
  have hzero : (locatorPoly a (B.erase d) * P * U).coeff (L + (B.erase d).card) = 0 := by
    rw [mul_assoc, coeff_mul_eq_sum_range hdegQ (by omega)]
    refine Finset.sum_eq_zero fun j hj => ?_
    rw [Finset.mem_range] at hj
    rw [hP.recurrence _ (by omega) (by omega), mul_zero]
  have hdegQP : (locatorPoly a (B.erase d) * P).natDegree ≤ L + (B.erase d).card :=
    (Polynomial.natDegree_mul_le_of_le hdegQ hP.degree).trans_eq (Nat.add_comm _ _)
  rw [coeff_mul_modified hU hdegQP le_rfl (by omega), hS.coeff_mul h.ne_zero
    ((Polynomial.natDegree_mul_le_of_le hdegQP hdegA).trans_eq (Nat.add_comm _ _)) (by omega),
    Finset.sum_eq_single_of_mem d hdU] at hzero
  · have hA : (locatorPoly a A).eval (a d)⁻¹ ≠ 0 := by
      rw [Ne, eval_inv_locatorPoly_eq_zero_iff (h.ne_zero d hdU)]
      rintro ⟨m, hm, hmd⟩
      obtain rfl := h.inj m (Finset.mem_union_left B hm) d hdU hmd
      exact Finset.disjoint_left.1 hAB hm hd
    have hB : Locators a B := h.mono Finset.subset_union_right
    simpa [he d hd, h.ne_zero d hdU, hA, hB.eval_erase_ne_zero hd] using hzero
  · intro m hm hne
    have hroot : (locatorPoly a (B.erase d)).eval (a m)⁻¹ = 0 ∨ (locatorPoly a A).eval (a m)⁻¹ = 0 := by
      rw [eval_inv_locatorPoly_eq_zero_iff (h.ne_zero m hm), eval_inv_locatorPoly_eq_zero_iff (h.ne_zero m hm)]
      obtain hmA | hmB := Finset.mem_union.1 hm
      · exact .inr ⟨m, hmA, rfl⟩
      · exact .inl ⟨m, Finset.mem_erase.2 ⟨hne, hmB⟩, rfl⟩
    rw [Polynomial.eval_mul, Polynomial.eval_mul]
    obtain hz | hz := hroot <;> simp [hz]

/-- Within capacity, the shortest recurrence of the modified syndromes is the error locator. -/
theorem Locators.eq_of_shortest (h : Locators a (A ∪ B)) (hS : IsSyndromeOf S a e (A ∪ B) r) (hAB : Disjoint A B)
    (he : ∀ d ∈ B, e d ≠ 0) (hcap : A.card + 2 * B.card ≤ r)
    (hU : ∀ i < r - A.card, U.coeff i = (locatorPoly a A * S).coeff (A.card + i)) {P : F[X]} {L : ℕ}
    (hP : Generates U P L (r - A.card)) (hshort : ∀ Q L', Generates U Q L' (r - A.card) → L ≤ L') :
    P = locatorPoly a B ∧ L = B.card := by
  have hle : L ≤ B.card := hshort _ _ (generates_locatorPoly hS h.ne_zero hAB hU)
  have hB : Locators a B := h.mono Finset.subset_union_right
  have hroots : ∀ d ∈ B, P.eval (a d)⁻¹ = 0 := fun d hd =>
    h.eval_eq_zero_of_generates hS hAB he hU hP (by omega) hd
  have hne : P ≠ 0 := by
    rintro rfl
    exact zero_ne_one hP.start
  exact ⟨hB.eq_locatorPoly hP.start (hP.degree.trans hle) hroots,
    hle.antisymm ((hB.card_le_natDegree hne hroots).trans hP.degree)⟩

end
end Sys2Proof.Machine

namespace Sys2Proof.Machine

/-! ### The bytes as a field of the library

With the tables ready the bytes are a field under XOR and the product of 41_gf_arithmetic.md R120. `BitVec 8` has
another arithmetic in the library, so the field is a type of its own, and everything after this section uses any field
`F` that the bytes are mapped into. -/

/-- A byte as an element of the field of a state. -/
@[ext] structure FieldElement (s : State) where
  byte : Byte

/-- The sum of R122. -/
def FieldElement.add {s : State} (a b : FieldElement s) : FieldElement s := ⟨a.byte ^^^ b.byte⟩

/-- The product of R120. -/
def FieldElement.mul {s : State} (a b : FieldElement s) : FieldElement s := ⟨gfMulx s.fieldPoly a.byte b.byte⟩

/-- The inverse of R124, and 0 for 0. -/
def FieldElement.inv {s : State} (a : FieldElement s) : FieldElement s :=
  if a.byte = 0 then ⟨0⟩ else ⟨gfInvNonzero s.tables a.byte⟩

theorem FieldElement.mul_comm {s : State} (a b : FieldElement s) : a.mul b = b.mul a :=
  FieldElement.ext (gfMulx_comm _ _ _)

theorem FieldElement.one_mul {s : State} (a : FieldElement s) : FieldElement.mul ⟨1⟩ a = a :=
  FieldElement.ext (gfMulx_one_left _ _)

theorem FieldElement.zero_mul {s : State} (a : FieldElement s) : FieldElement.mul ⟨0⟩ a = ⟨0⟩ :=
  FieldElement.ext (gfMulx_zero_left _ _)

theorem FieldElement.mul_inv {s : State} (h : s.FieldReady) {a : FieldElement s} (ha : a ≠ ⟨0⟩) :
    a.mul a.inv = ⟨1⟩ := by
  have hbyte : a.byte ≠ 0 := fun h0 => ha (FieldElement.ext h0)
  rw [FieldElement.inv, if_neg hbyte]
  exact FieldElement.ext (h.gfMulx_gfInvNonzero hbyte)

/-- The field of a ready state (R127). -/
@[reducible] def State.FieldReady.field {s : State} (h : s.FieldReady) : Field (FieldElement s) where
  add := FieldElement.add
  add_assoc a b c := FieldElement.ext (BitVec.xor_assoc _ _ _)
  add_comm a b := FieldElement.ext (BitVec.xor_comm _ _)
  zero := ⟨0⟩
  zero_add a := FieldElement.ext BitVec.zero_xor
  add_zero a := FieldElement.ext BitVec.xor_zero
  neg a := a
  neg_add_cancel a := FieldElement.ext BitVec.xor_self
  mul := FieldElement.mul
  mul_assoc a b c := FieldElement.ext (gfMulx_assoc _ _ _ _)
  mul_comm := FieldElement.mul_comm
  one := ⟨1⟩
  one_mul := FieldElement.one_mul
  mul_one a := (FieldElement.mul_comm a _).trans a.one_mul
  left_distrib a b c := FieldElement.ext (gfMulx_xor_right _ _ _ _)
  right_distrib a b c := FieldElement.ext (gfMulx_xor_left _ _ _ _)
  zero_mul := FieldElement.zero_mul
  mul_zero a := (FieldElement.mul_comm a _).trans a.zero_mul
  inv := FieldElement.inv
  inv_zero := rfl
  mul_inv_cancel _ := FieldElement.mul_inv h
  exists_pair_ne := ⟨⟨0⟩, ⟨1⟩, fun h01 => absurd (FieldElement.mk.inj h01) (by decide)⟩
  nsmul := @nsmulRec _ ⟨⟨0⟩⟩ ⟨FieldElement.add⟩
  zsmul := @zsmulRec _ ⟨⟨0⟩⟩ ⟨FieldElement.add⟩ ⟨id⟩ (@nsmulRec _ ⟨⟨0⟩⟩ ⟨FieldElement.add⟩)
  nnqsmul := _
  nnqsmul_def := fun _ _ => rfl
  qsmul := _
  qsmul_def := fun _ _ => rfl

/-- A field that the bytes of a state are mapped into, with their sums and products. -/
structure FieldMap (s : State) (F : Type) [Field F] where
  map : Byte → F
  injective : Function.Injective map
  map_xor : ∀ a b, map (a ^^^ b) = map a + map b
  map_gfMulx : ∀ a b, map (gfMulx s.fieldPoly a b) = map a * map b

theorem State.FieldReady.exists_fieldMap {s : State} (h : s.FieldReady) :
    ∃ (F : Type) (_ : Field F), Nonempty (FieldMap s F) :=
  ⟨FieldElement s, h.field, ⟨@FieldMap.mk s (FieldElement s) h.field FieldElement.mk
    (fun _ _ hab => FieldElement.mk.inj hab) (fun _ _ => rfl) fun _ _ => rfl⟩⟩

section
open scoped Polynomial
variable {s : State} {F : Type} [Field F] (φ : FieldMap s F)

theorem FieldMap.map_zero : φ.map 0 = 0 := by
  have hsum : φ.map 0 = φ.map 0 + φ.map 0 := φ.map_xor 0 0
  exact left_eq_add.1 hsum

theorem FieldMap.map_eq_zero_iff {b : Byte} : φ.map b = 0 ↔ b = 0 := by
  rw [← φ.map_zero, φ.injective.eq_iff]

theorem FieldMap.map_one : φ.map 1 = 1 := by
  have hne : φ.map 1 ≠ 0 := mt φ.map_eq_zero_iff.1 (by decide)
  have hmul := φ.map_gfMulx 1 1
  rw [gfMulx_one_left] at hmul
  exact (mul_eq_left₀ hne).1 hmul.symm

include φ in
theorem FieldMap.charP : CharP F 2 := by
  refine CharTwo.of_one_ne_zero_of_two_eq_zero one_ne_zero ?_
  calc (2 : F) = φ.map 1 + φ.map 1 := by rw [φ.map_one, one_add_one_eq_two]
    _ = φ.map 0 := (φ.map_xor 1 1).symm
    _ = 0 := φ.map_zero

include φ in
/-- There are no signs in characteristic 2. -/
theorem FieldMap.neg_eq (x : F) : -x = x := by
  have := φ.charP
  exact CharTwo.neg_eq x

theorem FieldMap.map_gfPowx (b : Byte) (n : ℕ) : φ.map (gfPowx s.fieldPoly b n) = φ.map b ^ n := by
  induction n with
  | zero => exact φ.map_one.trans (pow_zero _).symm
  | succ n ih => rw [gfPowx, φ.map_gfMulx, ih, pow_succ]

theorem FieldMap.map_xorSum_range (f : ℕ → Byte) (n : ℕ) :
    φ.map (xorSum ((List.range n).map f)) = ∑ i ∈ Finset.range n, φ.map (f i) := by
  induction n generalizing f with
  | zero => exact φ.map_zero
  | succ n ih => rw [xorSum_map_range_succ, φ.map_xor, ih, Finset.sum_range_succ', add_comm]

/-! ### Lists of bytes as polynomials -/

/-- The polynomial of a list of coefficients, low degree first (00_scope.md R9). -/
noncomputable def FieldMap.poly : List Byte → F[X]
  | [] => 0
  | b :: p => Polynomial.C (φ.map b) + Polynomial.X * FieldMap.poly p

theorem FieldMap.poly_cons (b : Byte) (p : List Byte) :
    φ.poly (b :: p) = Polynomial.C (φ.map b) + Polynomial.X * φ.poly p := rfl

@[simp] theorem FieldMap.coeff_poly (p : List Byte) (k : ℕ) : (φ.poly p).coeff k = φ.map (coeff p k) := by
  induction p generalizing k with
  | nil => exact φ.map_zero.symm
  | cons b p ih => cases k <;> simp [FieldMap.poly_cons, ih, Polynomial.coeff_C_succ]

theorem FieldMap.natDegree_poly_le {p : List Byte} {n : ℕ} (h : p.length ≤ n + 1) : (φ.poly p).natDegree ≤ n :=
  Polynomial.natDegree_le_iff_coeff_eq_zero.2 fun k hk => by
    rw [φ.coeff_poly, coeff_eq_zero_of_length_le (by omega), φ.map_zero]

/-- Lists with the same coefficients are the same polynomial. -/
theorem FieldMap.poly_congr {p q : List Byte} (h : ∀ k, coeff p k = coeff q k) : φ.poly p = φ.poly q :=
  Polynomial.ext fun k => by rw [φ.coeff_poly, φ.coeff_poly, h]

theorem FieldMap.eval_poly (p : List Byte) (x : Byte) :
    (φ.poly p).eval (φ.map x) = φ.map (polyValue s.fieldPoly p x) := by
  induction p with
  | nil => exact Polynomial.eval_zero.trans φ.map_zero.symm
  | cons b p ih =>
    rw [φ.poly_cons, polyValue_cons, φ.map_xor, φ.map_gfMulx, ← ih]
    simp [mul_comm]

theorem FieldMap.coeff_poly_mul (p q : List Byte) (k : ℕ) :
    (φ.poly p * φ.poly q).coeff k = φ.map (convCoeff s.fieldPoly p q k) := by
  rw [Polynomial.coeff_mul, Finset.Nat.sum_antidiagonal_eq_sum_range_succ_mk, convCoeff, φ.map_xorSum_range]
  exact Finset.sum_congr rfl fun i _ => by rw [φ.coeff_poly, φ.coeff_poly, φ.map_gfMulx]

theorem FieldMap.poly_polyMul (h : s.FieldReady) (p q : List Byte) :
    φ.poly (polyMul s.tables p q) = φ.poly p * φ.poly q :=
  Polynomial.ext fun k => by rw [φ.coeff_poly, φ.coeff_poly_mul, h.coeff_polyMul]

theorem FieldMap.poly_polyTrim (p : List Byte) : φ.poly (polyTrim p) = φ.poly p :=
  φ.poly_congr (coeff_polyTrim p)

theorem FieldMap.poly_polyAdd (p q : List Byte) : φ.poly (polyAdd p q) = φ.poly p + φ.poly q :=
  Polynomial.ext fun k => by
    rw [Polynomial.coeff_add, φ.coeff_poly, φ.coeff_poly, φ.coeff_poly, coeff_polyAdd, φ.map_xor]

theorem FieldMap.poly_polyScale (h : s.FieldReady) (b : Byte) (p : List Byte) :
    φ.poly (polyScale s.tables b p) = Polynomial.C (φ.map b) * φ.poly p :=
  Polynomial.ext fun k => by
    rw [Polynomial.coeff_C_mul, φ.coeff_poly, φ.coeff_poly, h.polyScale_eq, coeff_map_gfMulx, φ.map_gfMulx]

theorem FieldMap.poly_replicate_append (n : ℕ) (p : List Byte) :
    φ.poly (List.replicate n 0 ++ p) = Polynomial.X ^ n * φ.poly p := by
  refine Polynomial.ext fun k => ?_
  rw [Polynomial.coeff_X_pow_mul', φ.coeff_poly, coeff_replicate_append]
  by_cases hk : k < n
  · rw [if_pos hk, if_neg (by omega), φ.map_zero]
  · rw [if_neg hk, if_pos (by omega), φ.coeff_poly]

/-- The formal derivative of R196 is the derivative: a coefficient of odd index is multiplied by 1, one of even index
by 0. -/
theorem FieldMap.poly_formalDeriv (p : List Byte) : φ.poly (formalDeriv p) = Polynomial.derivative (φ.poly p) := by
  have := φ.charP
  refine Polynomial.ext fun k => ?_
  rw [Polynomial.coeff_derivative, φ.coeff_poly, φ.coeff_poly, coeff_formalDeriv, ← Nat.cast_succ]
  obtain hk | hk := Nat.mod_two_eq_zero_or_one k
  · rw [if_pos hk, CharTwo.natCast_eq_mod, show (k + 1) % 2 = 1 by omega, Nat.cast_one, mul_one]
  · rw [if_neg (by omega), CharTwo.natCast_eq_mod, show (k + 1) % 2 = 0 by omega, Nat.cast_zero, mul_zero, φ.map_zero]

/-! ### The locators (45_rs_decode.md R190) -/

/-- The locator `α^d` of degree d. -/
def FieldMap.locator (d : ℕ) : F := φ.map (s.alpha d)

theorem FieldMap.locator_eq_pow (d : ℕ) : φ.locator d = φ.map s.fieldGen ^ d := φ.map_gfPowx s.fieldGen d

theorem FieldMap.locator_mul_locator (h : s.FieldReady) {d : ℕ} (hd : d ≤ 255) :
    φ.locator d * φ.locator (255 - d) = 1 := by
  rw [FieldMap.locator, FieldMap.locator, ← φ.map_gfMulx, ← s.alpha_add, Nat.add_sub_of_le hd, h.generatorOk.alpha_255,
    φ.map_one]

/-- `α^(255-d)` is the inverse of the locator. -/
theorem FieldMap.map_alpha_sub (h : s.FieldReady) {d : ℕ} (hd : d ≤ 255) :
    φ.map (s.alpha (255 - d)) = (φ.locator d)⁻¹ :=
  eq_inv_of_mul_eq_one_right (φ.locator_mul_locator h hd)

/-- The degrees of a word have nonzero and distinct locators (41_gf_arithmetic.md R121). -/
theorem FieldMap.locators (h : s.FieldReady) {D : Finset ℕ} (hD : ∀ d ∈ D, d < 255) : Locators φ.locator D where
  ne_zero d hd := left_ne_zero_of_mul_eq_one (φ.locator_mul_locator h (hD d hd).le)
  inj d hd m hm hdm := h.generatorOk.2.1 d (hD d hd) m (hD m hm) (φ.injective hdm)

end
end Sys2Proof.Machine

namespace Sys2Proof.Machine

/-! ### Berlekamp–Massey (45_rs_decode.md R193) -/

section
open scoped Polynomial
variable {s : State} {F : Type} [Field F] (φ : FieldMap s F)

/-- `x^mm·B(x)`: what a turn adds to `C`, up to a factor. -/
noncomputable def FieldMap.shiftedPrev (z : BmVars) : F[X] := Polynomial.X ^ z.shift * φ.poly z.prev

/-- The variables after `N` turns: `C` with `L` is a shortest recurrence of the first `N` elements, and `B`, shifted, is
one of a length of at most `N + 1 - L` that fails at element `N` by `b`. Before the first change of length (`L = 0`) `B`
is not such a recurrence yet. -/
structure BmInvariant (syn : List Byte) (N : ℕ) (z : BmVars) : Prop where
  start : coeff z.conn 0 = 1
  connLength : z.conn.length ≤ z.len + 1
  lenLe : z.len ≤ N
  generates : Generates (φ.poly syn) (φ.poly z.conn) z.len N
  shortest : ∀ Q L, Generates (φ.poly syn) Q L N → z.len ≤ L
  shiftPos : 0 < z.shift
  prevDiscNe : z.prevDisc ≠ 0
  prevLength : z.prev.length + z.len + z.shift ≤ N + 2
  prevRecurrence : ∀ i, N + 1 ≤ z.len + i → i < N → (φ.shiftedPrev z * φ.poly syn).coeff i = 0
  prevFails : 0 < z.len → (φ.shiftedPrev z * φ.poly syn).coeff N = φ.map z.prevDisc

/-- A sum written as a loop that skips some indices. -/
theorem FieldMap.map_foldl_range (f : ℕ → Byte) (c : ℕ → Prop) [DecidablePred c] (hf : ∀ j, ¬ c j → f j = 0) (b : Byte)
    (n : ℕ) : φ.map ((List.range n).foldl (fun d j => if c j then gfAdd d (f j) else d) b) =
      φ.map b + ∑ j ∈ Finset.range n, φ.map (f j) := by
  induction n with
  | zero => simp
  | succ n ih =>
    rw [List.range_succ, List.foldl_append, List.foldl_cons, List.foldl_nil, Finset.sum_range_succ, ← add_assoc, ← ih]
    split
    · exact φ.map_xor _ _
    · rename_i hc
      rw [hf n hc, φ.map_zero, add_zero]

variable {φ} {syn : List Byte} {N : ℕ} {z : BmVars}

/-- The discrepancy is coefficient `N` of `C·S`. -/
theorem BmInvariant.map_bmDiscrepancy (hz : BmInvariant φ syn N z) (h : s.FieldReady) :
    φ.map (bmDiscrepancy s.tables syn z N) = (φ.poly z.conn * φ.poly syn).coeff N := by
  rw [coeff_mul_eq_sum_range hz.generates.degree hz.lenLe, Finset.sum_range_succ', add_comm, hz.generates.start,
    one_mul, φ.coeff_poly, Nat.sub_zero]
  refine (φ.map_foldl_range (fun j => gfMul s.tables (coeff z.conn (j + 1)) (coeff syn (N - (j + 1))))
    (fun j => j + 1 < z.conn.length) (fun j hj => ?_) _ _).trans ?_
  · rw [coeff_eq_zero_of_length_le (Nat.not_lt.1 hj), h.gfMul_eq, gfMulx_zero_left]
  · simp only [h.gfMul_eq, φ.map_gfMulx, φ.coeff_poly, coeff]

/-- A turn that keeps `L` and `B`, with a connection polynomial that generates one element more. -/
theorem BmInvariant.keep (hz : BmInvariant φ syn N z) {conn : List Byte} (hstart : coeff conn 0 = 1)
    (hlen : conn.length ≤ z.len + 1) (hgen : Generates (φ.poly syn) (φ.poly conn) z.len (N + 1)) :
    BmInvariant φ syn (N + 1) { z with conn := conn, shift := z.shift + 1 } := by
  have hshift : φ.shiftedPrev { z with conn := conn, shift := z.shift + 1 } * φ.poly syn =
      φ.shiftedPrev z * φ.poly syn * Polynomial.X := by
    simp only [FieldMap.shiftedPrev]
    ring
  have hprev := hz.prevLength
  have hle := hz.lenLe
  exact {
    start := hstart
    connLength := hlen
    lenLe := hle.trans (Nat.le_succ N)
    generates := hgen
    shortest := fun Q L hQ => hz.shortest Q L hQ.of_succ
    shiftPos := Nat.succ_pos _
    prevDiscNe := hz.prevDiscNe
    prevLength := by simp only; omega
    prevRecurrence := fun i hi hN => by
      cases i with
      | zero => simp only at hi; omega
      | succ i =>
        rw [hshift, Polynomial.coeff_mul_X]
        exact hz.prevRecurrence i (by simp only at hi; omega) (by omega)
    prevFails := fun hpos => by rw [hshift, Polynomial.coeff_mul_X, hz.prevFails hpos] }

/-- `C` after a turn whose discrepancy `d` is not 0: `C + (d/b)·x^mm·B`. -/
def bmUpdated (t : FieldTables) (z : BmVars) (d : Byte) : List Byte :=
  polyAdd z.conn (List.replicate z.shift 0 ++ polyScale t (gfMul t d (gfInvNonzero t z.prevDisc)) z.prev)

theorem bmTurn_of_zero {t : FieldTables} (hd : bmDiscrepancy t syn z N = 0) :
    bmTurn t syn z N = { z with shift := z.shift + 1 } := if_pos hd

theorem bmTurn_of_change {t : FieldTables} (hd : bmDiscrepancy t syn z N ≠ 0) (hlen : 2 * z.len ≤ N) :
    bmTurn t syn z N = ⟨bmUpdated t z (bmDiscrepancy t syn z N), z.conn, N + 1 - z.len, 1, bmDiscrepancy t syn z N⟩ :=
  (if_neg hd).trans (if_pos hlen)

theorem bmTurn_of_no_change {t : FieldTables} (hd : bmDiscrepancy t syn z N ≠ 0) (hlen : ¬ 2 * z.len ≤ N) :
    bmTurn t syn z N = { z with conn := bmUpdated t z (bmDiscrepancy t syn z N), shift := z.shift + 1 } :=
  (if_neg hd).trans (if_neg hlen)

theorem length_bmUpdated (t : FieldTables) (z : BmVars) (d : Byte) :
    (bmUpdated t z d).length = max z.conn.length (z.shift + z.prev.length) := by
  simp [bmUpdated]

theorem coeff_zero_bmUpdated (t : FieldTables) (d : Byte) (hpos : 0 < z.shift) :
    coeff (bmUpdated t z d) 0 = coeff z.conn 0 := by
  rw [bmUpdated, coeff_polyAdd, coeff_replicate_append, if_pos hpos]
  exact BitVec.xor_zero

/-- The factor `d/b`. -/
theorem FieldMap.map_bmCoefficient (h : s.FieldReady) (d : Byte) {b : Byte} (hb : b ≠ 0) :
    φ.map (gfMul s.tables d (gfInvNonzero s.tables b)) * φ.map b = φ.map d := by
  rw [← φ.map_gfMulx, h.gfMulx_quotient d hb]

theorem FieldMap.coeff_bmUpdated_mul (h : s.FieldReady) (z : BmVars) (d : Byte) (i : ℕ) :
    (φ.poly (bmUpdated s.tables z d) * φ.poly syn).coeff i = (φ.poly z.conn * φ.poly syn).coeff i +
      φ.map (gfMul s.tables d (gfInvNonzero s.tables z.prevDisc)) * (φ.shiftedPrev z * φ.poly syn).coeff i := by
  rw [bmUpdated, φ.poly_polyAdd, φ.poly_replicate_append, φ.poly_polyScale h, ← Polynomial.coeff_C_mul,
    ← Polynomial.coeff_add, FieldMap.shiftedPrev]
  congr 1
  ring

/-- The new `C` generates one element more, from the larger one of the two lengths on. -/
theorem BmInvariant.generates_bmUpdated (hz : BmInvariant φ syn N z) (h : s.FieldReady) {d : Byte}
    (hd : φ.map d = (φ.poly z.conn * φ.poly syn).coeff N) {L : ℕ} (hL : z.len ≤ L) (hL' : N + 1 ≤ z.len + L)
    (hpos : L ≤ N → 0 < z.len) : Generates (φ.poly syn) (φ.poly (bmUpdated s.tables z d)) L (N + 1) where
  start := by rw [φ.coeff_poly, coeff_zero_bmUpdated _ _ hz.shiftPos, hz.start, φ.map_one]
  degree := φ.natDegree_poly_le (by
    have hconn := hz.connLength
    have hprev := hz.prevLength
    rw [length_bmUpdated]
    omega)
  recurrence i hi hN := by
    rw [FieldMap.coeff_bmUpdated_mul h]
    obtain hlt | rfl := Nat.lt_succ_iff_lt_or_eq.1 hN
    · rw [hz.generates.recurrence i (by omega) hlt, hz.prevRecurrence i (by omega) hlt, mul_zero, add_zero]
    · rw [hz.prevFails (hpos hi), FieldMap.map_bmCoefficient h d hz.prevDiscNe, ← hd, ← φ.map_xor, BitVec.xor_self]
      exact φ.map_zero

/-- A discrepancy that is not 0 after enough elements: `L` grows to the length that Massey's bound asks for. -/
theorem BmInvariant.change (hz : BmInvariant φ syn N z) (h : s.FieldReady) {d : Byte}
    (hd : φ.map d = (φ.poly z.conn * φ.poly syn).coeff N) (hne : d ≠ 0) (hlen : 2 * z.len ≤ N) :
    BmInvariant φ syn (N + 1) ⟨bmUpdated s.tables z d, z.conn, N + 1 - z.len, 1, d⟩ := by
  have hshift : φ.shiftedPrev ⟨bmUpdated s.tables z d, z.conn, N + 1 - z.len, 1, d⟩ * φ.poly syn =
      φ.poly z.conn * φ.poly syn * Polynomial.X := by
    simp only [FieldMap.shiftedPrev]
    ring
  have hfail : (φ.poly z.conn * φ.poly syn).coeff N ≠ 0 := by
    rw [← hd]
    exact mt φ.map_eq_zero_iff.1 hne
  have hprev := hz.prevLength
  have hconn := hz.connLength
  exact {
    start := (coeff_zero_bmUpdated _ _ hz.shiftPos).trans hz.start
    connLength := by simp only [length_bmUpdated]; omega
    lenLe := Nat.sub_le _ _
    generates := hz.generates_bmUpdated h hd (L := N + 1 - z.len) (by omega) (by omega) fun _ => by omega
    shortest := fun Q L hQ => Nat.sub_le_iff_le_add'.2 (hz.generates.length_ge hfail hQ)
    shiftPos := Nat.one_pos
    prevDiscNe := hne
    prevLength := by simp only; omega
    prevRecurrence := fun i hi hN => by
      cases i with
      | zero => simp only at hi; omega
      | succ i =>
        rw [hshift, Polynomial.coeff_mul_X]
        exact hz.generates.recurrence i (by simp only at hi; omega) (by omega)
    prevFails := fun _ => by rw [hshift, Polynomial.coeff_mul_X, hd] }

/-- A turn keeps the invariant. -/
theorem BmInvariant.turn (hz : BmInvariant φ syn N z) (h : s.FieldReady) :
    BmInvariant φ syn (N + 1) (bmTurn s.tables syn z N) := by
  have hd := hz.map_bmDiscrepancy h
  by_cases h0 : bmDiscrepancy s.tables syn z N = 0
  · rw [bmTurn_of_zero h0]
    rw [h0, φ.map_zero] at hd
    exact hz.keep hz.start hz.connLength (hz.generates.succ hd.symm)
  by_cases hlen : 2 * z.len ≤ N
  · rw [bmTurn_of_change h0 hlen]
    exact hz.change h hd h0 hlen
  · have hprev := hz.prevLength
    have hconn := hz.connLength
    rw [bmTurn_of_no_change h0 hlen]
    exact hz.keep ((coeff_zero_bmUpdated _ _ hz.shiftPos).trans hz.start)
      (by rw [length_bmUpdated]; omega)
      (hz.generates_bmUpdated h hd le_rfl (by omega) fun _ => by omega)

/-- The variables before the loop. -/
def bmInitial : BmVars := { conn := [1], prev := [1], len := 0, shift := 1, prevDisc := 1 }

theorem bmInvariant_initial (φ : FieldMap s F) (syn : List Byte) : BmInvariant φ syn 0 bmInitial where
  start := rfl
  connLength := le_rfl
  lenLe := le_rfl
  generates := ⟨(φ.coeff_poly [1] 0).trans φ.map_one, φ.natDegree_poly_le le_rfl,
    fun _ _ h => absurd h (Nat.not_lt_zero _)⟩
  shortest _ _ _ := Nat.zero_le _
  shiftPos := Nat.one_pos
  prevDiscNe := by decide
  prevLength := le_rfl
  prevRecurrence _ _ h := absurd h (Nat.not_lt_zero _)
  prevFails h := absurd h (Nat.lt_irrefl 0)

/-- The variables after `N` turns. -/
def bmRun (t : FieldTables) (syn : List Byte) (N : ℕ) : BmVars := (List.range N).foldl (bmTurn t syn) bmInitial

theorem bmRun_succ (t : FieldTables) (syn : List Byte) (N : ℕ) :
    bmRun t syn (N + 1) = bmTurn t syn (bmRun t syn N) N := by
  rw [bmRun, List.range_succ, List.foldl_append]
  rfl

theorem rsBerlekampMassey_eq (t : FieldTables) (syn : List Byte) :
    rsBerlekampMassey t syn = (polyTrim (bmRun t syn syn.length).conn, (bmRun t syn syn.length).len) := rfl

theorem bmInvariant_bmRun (h : s.FieldReady) (φ : FieldMap s F) (syn : List Byte) (N : ℕ) :
    BmInvariant φ syn N (bmRun s.tables syn N) := by
  induction N with
  | zero => exact bmInvariant_initial φ syn
  | succ N ih =>
    rw [bmRun_succ]
    exact ih.turn h

/-- The locator polynomial and its length are a shortest recurrence of the operand. -/
theorem generates_rsBerlekampMassey (h : s.FieldReady) (φ : FieldMap s F) (syn : List Byte) :
    Generates (φ.poly syn) (φ.poly (rsBerlekampMassey s.tables syn).1) (rsBerlekampMassey s.tables syn).2 syn.length ∧
      ∀ Q L, Generates (φ.poly syn) Q L syn.length → (rsBerlekampMassey s.tables syn).2 ≤ L := by
  have hz := bmInvariant_bmRun h φ syn syn.length
  rw [rsBerlekampMassey_eq, φ.poly_polyTrim]
  exact ⟨hz.generates, hz.shortest⟩

/-! ### RSLOC (R211) -/

/-- A recurrence said of lists and one said of polynomials. -/
theorem FieldMap.recurrenceHolds_iff (φ : FieldMap s F) {lam : List Byte} {L : ℕ} (hlam : lam.length ≤ L + 1)
    (syn : List Byte) : RecurrenceHolds s.fieldPoly lam L syn ↔
      ∀ i, L ≤ i → i < syn.length → (φ.poly lam * φ.poly syn).coeff i = 0 := by
  refine forall_congr' fun i => imp_congr_right fun hi => imp_congr_right fun _ => ?_
  rw [← φ.map_eq_zero_iff, φ.map_xorSum_range, coeff_mul_eq_sum_range (φ.natDegree_poly_le hlam) hi]
  simp only [φ.map_gfMulx, φ.coeff_poly]

/-- A recurrence of length L reads its first L + 1 coefficients only. -/
theorem recurrenceHolds_take (poly : BitVec 9) (lam : List Byte) (L : ℕ) (syn : List Byte) :
    RecurrenceHolds poly (lam.take (L + 1)) L syn ↔ RecurrenceHolds poly lam L syn := by
  refine forall_congr' fun i => imp_congr_right fun _ => imp_congr_right fun _ => ?_
  have hsame : ∀ j ∈ List.range (L + 1), gfMulx poly (coeff (lam.take (L + 1)) j) (coeff syn (i - j)) =
      gfMulx poly (coeff lam j) (coeff syn (i - j)) := fun j hj => by
    rw [coeff_take, if_pos (List.mem_range.1 hj)]
  rw [List.map_congr_left hsame]

/-- An element that is not 0 gives a recurrence for a later one. -/
theorem exists_generates_of_coeff_ne_zero {S : F[X]} {i m : ℕ} (hi : i < m) (hne : S.coeff i ≠ 0) :
    ∃ Q, Generates S Q m (m + 1) := by
  refine ⟨1 + Polynomial.C (-S.coeff m / S.coeff i) * Polynomial.X ^ (m - i), ?_, ?_, fun k hk hlt => ?_⟩
  · rw [Polynomial.coeff_add, Polynomial.coeff_one_zero, Polynomial.coeff_C_mul_X_pow, if_neg (by omega), add_zero]
  · refine Polynomial.natDegree_add_le_of_degree_le (by simp) ?_
    exact (Polynomial.natDegree_C_mul_X_pow_le _ _).trans (Nat.sub_le _ _)
  · obtain rfl : k = m := by omega
    rw [add_mul, one_mul, mul_assoc, Polynomial.coeff_add, Polynomial.coeff_C_mul, Polynomial.coeff_X_pow_mul',
      if_pos (Nat.sub_le _ _), Nat.sub_sub_self hi.le, div_mul_cancel₀ _ hne, add_neg_cancel]

end

/-- A list is determined by its length and its coefficients. -/
theorem eq_of_coeff_eq {p q : List Byte} (hlen : p.length = q.length) (h : ∀ i < p.length, coeff p i = coeff q i) :
    p = q :=
  List.ext_getElem hlen fun i hp hq => by
    have hi := h i hp
    rwa [coeff, coeff, List.getD_eq_getElem _ _ hp, List.getD_eq_getElem _ _ hq] at hi

theorem State.FieldReady.generatesFrom_rsBerlekampMassey {s : State} (h : s.FieldReady) (syn : List Byte) :
    GeneratesFrom s.fieldPoly (rsBerlekampMassey s.tables syn).1 (rsBerlekampMassey s.tables syn).2 syn := by
  obtain ⟨F, _, ⟨φ⟩⟩ := h.exists_fieldMap
  have hz := bmInvariant_bmRun h φ syn syn.length
  have hne : (bmRun s.tables syn syn.length).conn ≠ [] := by
    intro hnil
    have hstart := hz.start
    rw [hnil] at hstart
    exact absurd hstart (by decide)
  have hlen := (length_polyTrim_le _).trans hz.connLength
  rw [rsBerlekampMassey_eq]
  exact {
    canonical := canonical_polyTrim hne
    start := (coeff_polyTrim _ 0).trans hz.start
    degree := hlen
    length := hz.lenLe
    recurrence := (φ.recurrenceHolds_iff hlen syn).2 fun i hi hlt => by
      rw [φ.poly_polyTrim]
      exact hz.generates.recurrence i hi hlt
    shortest := fun other L hL hstart hrec => by
      have htake : (other.take (L + 1)).length ≤ L + 1 := List.length_take_le _ _
      refine absurd (hz.shortest (φ.poly (other.take (L + 1))) L ⟨?_, φ.natDegree_poly_le htake, ?_⟩) (Nat.not_le.2 hL)
      · rw [φ.coeff_poly, coeff_take, if_pos (Nat.succ_pos L), hstart, φ.map_one]
      · exact (φ.recurrenceHolds_iff htake syn).1 ((recurrenceHolds_take _ _ _ _).2 hrec) }

/-- Only zeros with one other element at the end need a recurrence as long as they are. -/
theorem State.FieldReady.eq_zeros_of_length {s : State} (h : s.FieldReady) {syn : List Byte} {m : ℕ}
    (hsyn : syn.length = m + 1) (hlen : m + 1 ≤ (rsBerlekampMassey s.tables syn).2) :
    ∃ d : Byte, d ≠ 0 ∧ syn = List.replicate m 0 ++ [d] := by
  obtain ⟨F, _, ⟨φ⟩⟩ := h.exists_fieldMap
  obtain ⟨-, hshort⟩ := generates_rsBerlekampMassey h φ syn
  rw [hsyn] at hshort
  have hzero : ∀ i < m, coeff syn i = 0 := by
    intro i hi
    by_contra hne
    obtain ⟨Q, hQ⟩ := exists_generates_of_coeff_ne_zero (S := φ.poly syn) hi (by
      rwa [φ.coeff_poly, Ne, φ.map_eq_zero_iff])
    exact absurd (hlen.trans (hshort Q m hQ)) (Nat.not_succ_le_self m)
  have hlast : coeff syn m ≠ 0 := by
    intro hm
    have hone : Generates (φ.poly syn) 1 0 (m + 1) := ⟨Polynomial.coeff_one_zero, by simp, fun i _ hi => by
      rw [one_mul, φ.coeff_poly, φ.map_eq_zero_iff]
      obtain hi | rfl := Nat.lt_succ_iff_lt_or_eq.1 hi
      · exact hzero i hi
      · exact hm⟩
    exact absurd (hlen.trans (hshort 1 0 hone)) (Nat.not_succ_le_zero m)
  refine ⟨coeff syn m, hlast, eq_of_coeff_eq (by simp [hsyn]) fun i hi => ?_⟩
  rw [coeff_replicate_append]
  split
  · exact hzero i ‹_›
  · obtain rfl : i = m := by omega
    rw [Nat.sub_self, coeff_cons_zero]

/-- Over zeros nothing happens but the shift. -/
theorem bmRun_zeros (t : FieldTables) {syn : List Byte} {m : ℕ} (h : ∀ i < m, coeff syn i = 0) :
    bmRun t syn m = { bmInitial with shift := m + 1 } := by
  induction m with
  | zero => rfl
  | succ m ih =>
    rw [bmRun_succ, ih fun i hi => h i (by omega)]
    exact bmTurn_of_zero (h m (Nat.lt_succ_self m))

/-- After `m` zeros an element that is not 0 gives a polynomial of degree `m + 1`. -/
theorem State.FieldReady.length_rsBerlekampMassey_zeros {s : State} (h : s.FieldReady) (m : ℕ) {d : Byte} (hd : d ≠ 0) :
    (rsBerlekampMassey s.tables (List.replicate m 0 ++ [d])).1.length = m + 2 := by
  have hcoeff := coeff_replicate_append m [d]
  have hrun := bmRun_zeros s.tables (syn := List.replicate m 0 ++ [d]) (m := m) fun i hi => by rw [hcoeff, if_pos hi]
  have hdisc : bmDiscrepancy s.tables (List.replicate m 0 ++ [d]) { bmInitial with shift := m + 1 } m = d := by
    refine (hcoeff m).trans ?_
    rw [if_neg (Nat.lt_irrefl m), Nat.sub_self, coeff_cons_zero]
  have hone : gfInvNonzero s.tables 1 ≠ 0 := by
    intro h0
    have hinv := h.gfMulx_gfInvNonzero (a := 1) (by decide)
    rw [h0, gfMulx_zero_right] at hinv
    exact absurd hinv (by decide)
  have hlead := h.gfMul_ne_zero (h.gfMul_ne_zero hd hone) (show (1 : Byte) ≠ 0 by decide)
  have hturn := bmTurn_of_change (hdisc.symm ▸ hd) (show 2 * 0 ≤ m by omega)
  rw [hdisc] at hturn
  rw [rsBerlekampMassey_eq, List.length_append, List.length_replicate, List.length_singleton, bmRun_succ, hrun, hturn,
    polyTrim_of_getLast (c := gfMul s.tables (gfMul s.tables d (gfInvNonzero s.tables 1)) 1) _ hlead, length_bmUpdated]
  · simp [bmInitial]
  · rw [bmUpdated, getLast?_polyAdd (by simp [bmInitial]), List.getLast?_append]
    rfl

/-- RSLOC with the tables ready (R211). -/
theorem exec_rsloc {s : State} (h : s.FieldReady) (vd vs : VReg) (rc : XReg) :
    exec (.rsloc vd vs rc) s =
      if (rsBerlekampMassey s.tables s.v[vs]).1.length ≤ Config.vcap then
        .next (((s.setV vd (rsBerlekampMassey s.tables s.v[vs]).1).setX rc
          (BitVec.ofNat 32 (rsBerlekampMassey s.tables s.v[vs]).2)).complete .ok 0)
      else .next (s.complete (.failure .capacityExceeded) 0) :=
  (h.runCommand_require _).trans (runCommand_require s _ _ _)

/-- Settles O44: the invariant of the loop makes Λ a shortest recurrence, and a Λ above the capacity has L = 256. -/
theorem rslocGivesRecurrence : Obligations.RslocGivesRecurrence := by
  intro s vd vs rc h
  have hgen := h.generatesFrom_rsBerlekampMassey s.v[vs]
  refine ⟨fun hform => ?_, fun d hd hform => ?_⟩
  · have hfits : (rsBerlekampMassey s.tables s.v[vs]).1.length ≤ Config.vcap := by
      by_contra hlong
      rw [Config.vcap] at hlong
      have hmax : s.v[vs].length ≤ 256 := h.1.vectorsFit vs
      have hdeg := hgen.degree
      have hlen := hgen.length
      obtain ⟨d, hd, hzeros⟩ := h.eq_zeros_of_length (syn := s.v[vs]) (m := 255) (by omega) (by omega)
      exact hform d hd hzeros
    exact ⟨_, _, _, (exec_rsloc h vd vs rc).trans (if_pos hfits), vectorAndScalarWritten_complete s vd _ rc _, hgen⟩
  · have hlong : ¬ (rsBerlekampMassey s.tables s.v[vs]).1.length ≤ Config.vcap := by
      rw [hform, h.length_rsBerlekampMassey_zeros 255 hd]
      decide
    exact ⟨_, (exec_rsloc h vd vs rc).trans (if_neg hlong), failedWith_complete s _⟩

end Sys2Proof.Machine

namespace Sys2Proof.Machine

/-! ### Decoding within capacity (45_rs_decode.md R200, R201)

`A` are the degrees of the erased positions, `B` those of the other positions in error. The syndromes are those of the
errata at `A ∪ B`; the decoder finds `B`, and then the value of every erratum. -/

/-- The syndromes with the erasures' effect on the locator search removed: `T[e .. r)` of R200. -/
def modifiedSyndromes (t : FieldTables) (gen : Byte) (recv : List Byte) (r : Nat) (erased : List Byte) : List Byte :=
  (padTo r (rsEvaluator t (rsSyndromes t gen (eraseAll recv erased) r)
    (rsErasureLocator t recv.length erased))).drop erased.length

/-- The degrees of the erased positions. -/
def erasedDegrees (n : Nat) (erased : List Byte) : List Nat := erased.map fun p => n - 1 - p.toNat

/-- A decode whose checks all pass (R200). -/
theorem rsDecode_eq_ok {t : FieldTables} {gen : Byte} {recv erased lam psi om mags fixed : List Byte} {r len : Nat}
    (hn : r < recv.length ∧ recv.length ≤ 255) (hlegal : LegalErasures recv.length erased) (he : erased.length ≤ r)
    (hbm : rsBerlekampMassey t (modifiedSyndromes t gen recv r erased) = (lam, len))
    (hcap : erased.length + 2 * len ≤ r)
    (hcount : (rsChien t lam).length = len)
    (hroots : ∀ d ∈ rsChien t lam, d < recv.length ∧ ∀ p ∈ erased, d ≠ recv.length - 1 - p.toNat)
    (hpsi : polyMul t lam (rsErasureLocator t recv.length erased) = psi)
    (hom : rsEvaluator t (rsSyndromes t gen (eraseAll recv erased) r) psi = om)
    (hmags : rsForney t om psi (erasedDegrees recv.length erased ++ rsChien t lam) = .ok mags)
    (hfixed : correctAll (eraseAll recv erased) recv.length
      ((erasedDegrees recv.length erased ++ rsChien t lam).zip mags) = fixed)
    (hsyn : ∀ c ∈ rsSyndromes t gen fixed r, c = 0) :
    rsDecode t gen recv r erased = .ok (fixed.take (recv.length - r)) := by
  have hn' : r < recv.length ∧ recv.length ≤ Config.nMax := hn
  rw [LegalErasures] at hlegal
  rw [modifiedSyndromes] at hbm
  rw [erasedDegrees] at hmags hfixed
  simp only [rsDecode, require_pos hn', require_pos hlegal, require_pos he, hbm, require_pos hcap, require_pos hcount,
    require_pos hroots, hpsi, hom, hmags, asUncorrectable, hfixed, require_pos hsyn, ok_bind, return_ok]

/-- The degrees of the positions that are in error and not erased (R201). -/
def errorDegrees (recv c erased : List Byte) : Finset ℕ :=
  ((Finset.range recv.length).filter fun i => coeff recv i ≠ coeff c i ∧ BitVec.ofNat 8 i ∉ erased).image
    (recv.length - 1 - ·)

/-- The value of the erratum at degree d. -/
def errataValue (w c : List Byte) (d : ℕ) : Byte := coeff w (w.length - 1 - d) ^^^ coeff c (w.length - 1 - d)

theorem card_errorDegrees_le (recv c erased : List Byte) :
    (errorDegrees recv c erased).card ≤ errorCount recv c erased := by
  refine Finset.card_image_le.trans (le_of_eq ?_)
  rw [errorCount, ← List.toFinset_card_of_nodup (List.nodup_range.filter _)]
  congr 1
  ext i
  simp

theorem mem_erasedDegrees {n d : ℕ} {erased : List Byte} (hn : n ≤ 255) (hlegal : LegalErasures n erased) (hd : d < n) :
    d ∈ erasedDegrees n erased ↔ BitVec.ofNat 8 (n - 1 - d) ∈ erased := by
  rw [erasedDegrees, List.mem_map]
  constructor
  · rintro ⟨p, hp, rfl⟩
    have hlt := hlegal.1 p hp
    rwa [show n - 1 - (n - 1 - p.toNat) = p.toNat by omega, ofNat_toNat_byte]
  · intro hp
    refine ⟨_, hp, ?_⟩
    rw [BitVec.toNat_ofNat, Nat.mod_eq_of_lt (by omega)]
    omega

theorem nodup_erasedDegrees {n : ℕ} {erased : List Byte} (hlegal : LegalErasures n erased) :
    (erasedDegrees n erased).Nodup := by
  refine hlegal.2.map_on fun p hp q hq hpq => BitVec.eq_of_toNat_eq ?_
  have hpn := hlegal.1 p hp
  have hqn := hlegal.1 q hq
  omega

theorem byte_xor_eq_zero_iff {a b : Byte} : a ^^^ b = 0 ↔ a = b := BitVec.xor_eq_zero_iff

/-- A received word within capacity of a codeword (R201). -/
structure WithinCapacity (s : State) (recv c erased : List Byte) (r : ℕ) : Prop where
  length_eq : recv.length = c.length
  parity_lt : r < recv.length
  length_le : recv.length ≤ 255
  codeword : s.IsCodeword r c
  legal : LegalErasures recv.length erased
  capacity : erased.length + 2 * errorCount recv c erased ≤ r

section
variable {s : State} {recv c erased : List Byte} {r : ℕ}

/-! #### The degrees of the errata -/

theorem WithinCapacity.lt_of_mem_erasedDegrees (hw : WithinCapacity s recv c erased r) {d : ℕ}
    (hd : d ∈ erasedDegrees recv.length erased) : d < recv.length := by
  obtain ⟨p, hp, rfl⟩ := List.mem_map.1 hd
  have hlt := hw.legal.1 p hp
  omega

/-- Outside the erasures the erased word is the received one. -/
theorem WithinCapacity.errataValue_eq (hw : WithinCapacity s recv c erased r) {d : ℕ} (hd : d < recv.length)
    (hA : d ∉ erasedDegrees recv.length erased) :
    errataValue (eraseAll recv erased) c d =
      coeff recv (recv.length - 1 - d) ^^^ coeff c (recv.length - 1 - d) := by
  rw [mem_erasedDegrees hw.length_le hw.legal hd] at hA
  rw [errataValue, length_eraseAll, coeff_eraseAll (toNat_ne_of_not_mem hA)]

theorem WithinCapacity.mem_errorDegrees (hw : WithinCapacity s recv c erased r) {d : ℕ} :
    d ∈ errorDegrees recv c erased ↔
      d < recv.length ∧ d ∉ erasedDegrees recv.length erased ∧ errataValue (eraseAll recv erased) c d ≠ 0 := by
  simp only [errorDegrees, Finset.mem_image, Finset.mem_filter, Finset.mem_range]
  constructor
  · rintro ⟨i, ⟨hi, hne, hnot⟩, rfl⟩
    have hlt : recv.length - 1 - i < recv.length := by omega
    have hback : recv.length - 1 - (recv.length - 1 - i) = i := by omega
    have hA : recv.length - 1 - i ∉ erasedDegrees recv.length erased := by
      rwa [mem_erasedDegrees hw.length_le hw.legal hlt, hback]
    rw [hw.errataValue_eq hlt hA, hback, Ne, byte_xor_eq_zero_iff]
    exact ⟨hlt, hA, hne⟩
  · rintro ⟨hd, hA, hne⟩
    rw [hw.errataValue_eq hd hA, Ne, byte_xor_eq_zero_iff] at hne
    rw [mem_erasedDegrees hw.length_le hw.legal hd] at hA
    exact ⟨_, ⟨by omega, hne, hA⟩, by omega⟩

/-- The degrees of all errata. -/
def errataDegrees (recv c erased : List Byte) : Finset ℕ :=
  (erasedDegrees recv.length erased).toFinset ∪ errorDegrees recv c erased

theorem WithinCapacity.lt_of_mem_errataDegrees (hw : WithinCapacity s recv c erased r) {d : ℕ}
    (hd : d ∈ errataDegrees recv c erased) : d < recv.length := by
  obtain hA | hB := Finset.mem_union.1 hd
  · exact hw.lt_of_mem_erasedDegrees (List.mem_toFinset.1 hA)
  · exact (hw.mem_errorDegrees.1 hB).1

theorem WithinCapacity.errataValue_eq_zero (hw : WithinCapacity s recv c erased r) {d : ℕ} (hd : d < recv.length)
    (hnot : d ∉ errataDegrees recv c erased) : errataValue (eraseAll recv erased) c d = 0 := by
  rw [errataDegrees, Finset.mem_union, List.mem_toFinset, not_or, hw.mem_errorDegrees] at hnot
  by_contra hne
  exact hnot.2 ⟨hd, hnot.1, hne⟩

theorem WithinCapacity.disjoint (hw : WithinCapacity s recv c erased r) :
    Disjoint (erasedDegrees recv.length erased).toFinset (errorDegrees recv c erased) :=
  Finset.disjoint_left.2 fun _ hA hB => (hw.mem_errorDegrees.1 hB).2.1 (List.mem_toFinset.1 hA)

theorem WithinCapacity.card_erased (hw : WithinCapacity s recv c erased r) :
    (erasedDegrees recv.length erased).toFinset.card = erased.length :=
  (List.toFinset_card_of_nodup (nodup_erasedDegrees hw.legal)).trans (List.length_map _)

theorem WithinCapacity.card_le (hw : WithinCapacity s recv c erased r) :
    erased.length + 2 * (errorDegrees recv c erased).card ≤ r := by
  have hcap := hw.capacity
  have hle := card_errorDegrees_le recv c erased
  omega

/-! #### What the decoder computes, as polynomials -/

variable {F : Type} [Field F] (φ : FieldMap s F)

/-- The value of an erratum in the field. -/
def FieldMap.errata (recv c erased : List Byte) (d : ℕ) : F := φ.map (errataValue (eraseAll recv erased) c d)

theorem WithinCapacity.locators (hw : WithinCapacity s recv c erased r) (h : s.FieldReady) :
    Locators φ.locator (errataDegrees recv c erased) :=
  φ.locators h fun _ hd => (hw.lt_of_mem_errataDegrees hd).trans_le hw.length_le

/-- The value of the word polynomial at `α^j`, degree by degree. -/
theorem FieldMap.map_syndrome (w : List Byte) (j : ℕ) :
    φ.map (polyValue s.fieldPoly w.reverse (s.alpha j)) =
      ∑ d ∈ Finset.range w.length, φ.map (coeff w (w.length - 1 - d)) * φ.locator d ^ j := by
  rw [polyValue, φ.map_xorSum_range, List.length_reverse]
  refine Finset.sum_congr rfl fun d hd => ?_
  rw [coeff_reverse _ (Finset.mem_range.1 hd), φ.map_gfMulx, φ.map_gfPowx, State.alpha, φ.map_gfPowx, φ.locator_eq_pow,
    pow_right_comm]

/-- The syndromes are those of the errata: the codeword's own are 0. -/
theorem WithinCapacity.isSyndromeOf (hw : WithinCapacity s recv c erased r) (h : s.FieldReady) :
    IsSyndromeOf (φ.poly (rsSyndromes s.tables s.fieldGen (eraseAll recv erased) r)) φ.locator
      (φ.errata recv c erased) (errataDegrees recv c erased) r := by
  intro j hj
  have hlen : (eraseAll recv erased).length = recv.length := length_eraseAll _ _
  have hcode : φ.map (polyValue s.fieldPoly c.reverse (s.alpha j)) = 0 := by rw [hw.codeword j hj, φ.map_zero]
  rw [φ.coeff_poly, h.coeff_rsSyndromes _ hj, ← add_zero (φ.map _), ← hcode, φ.map_syndrome, φ.map_syndrome,
    ← hw.length_eq, hlen, ← Finset.sum_add_distrib]
  refine (Finset.sum_subset_zero_on_sdiff (fun d hd => Finset.mem_range.2 (hw.lt_of_mem_errataDegrees hd))
    (fun d hd => ?_) fun d _ => ?_).symm
  · obtain ⟨hlt, hnot⟩ := Finset.mem_sdiff.1 hd
    have hzero := hw.errataValue_eq_zero (Finset.mem_range.1 hlt) hnot
    rw [errataValue, hlen] at hzero
    rw [← add_mul, ← φ.map_xor, hzero, φ.map_zero, zero_mul]
  · rw [FieldMap.errata, errataValue, hlen, φ.map_xor, add_mul]

theorem FieldMap.poly_one : φ.poly [1] = 1 := by
  rw [φ.poly_cons, φ.map_one, Polynomial.C_1]
  exact (congrArg _ (mul_zero _)).trans (add_zero _)

/-- The factor of one erasure. -/
theorem FieldMap.poly_one_cons (b : Byte) : φ.poly [1, b] = 1 - Polynomial.C (φ.map b) * Polynomial.X := by
  have hb : φ.poly [b] = Polynomial.C (φ.map b) := (congrArg _ (mul_zero _)).trans (add_zero _)
  rw [φ.poly_cons, hb, φ.map_one, Polynomial.C_1, sub_eq_add_neg, ← neg_mul, ← Polynomial.C_neg, φ.neg_eq, mul_comm]

/-- The loop of R198 from any factor on. -/
theorem FieldMap.poly_foldl_erased (h : s.FieldReady) {n : ℕ} (hn : n ≤ 255) (erased g : List Byte) :
    φ.poly (erased.foldl (fun g p => polyMul s.tables g [1, alogAt s.tables (n - 1 - p.toNat)]) g) =
      φ.poly g * ((erasedDegrees n erased).map fun d => 1 - Polynomial.C (φ.locator d) * Polynomial.X).prod := by
  induction erased generalizing g with
  | nil => exact (mul_one _).symm
  | cons p ps ih =>
    rw [List.foldl_cons, ih, φ.poly_polyMul h, φ.poly_one_cons, h.alogAt_eq (by omega), mul_assoc]
    rfl

/-- The erasure locator (R198). -/
theorem WithinCapacity.poly_rsErasureLocator (hw : WithinCapacity s recv c erased r) (h : s.FieldReady) :
    φ.poly (rsErasureLocator s.tables recv.length erased) =
      locatorPoly φ.locator (erasedDegrees recv.length erased).toFinset := by
  rw [rsErasureLocator, φ.poly_foldl_erased h hw.length_le, φ.poly_one, one_mul, locatorPoly,
    List.prod_toFinset _ (nodup_erasedDegrees hw.legal)]

theorem WithinCapacity.coeff_modifiedSyndromes (hw : WithinCapacity s recv c erased r) (h : s.FieldReady) {i : ℕ}
    (hi : i < r - (erasedDegrees recv.length erased).toFinset.card) :
    (φ.poly (modifiedSyndromes s.tables s.fieldGen recv r erased)).coeff i =
      (locatorPoly φ.locator (erasedDegrees recv.length erased).toFinset *
        φ.poly (rsSyndromes s.tables s.fieldGen (eraseAll recv erased) r)).coeff
        ((erasedDegrees recv.length erased).toFinset.card + i) := by
  have hcoeff := h.coeff_rsEvaluator (rsSyndromes s.tables s.fieldGen (eraseAll recv erased) r)
    (rsErasureLocator s.tables recv.length erased)
  rw [length_rsSyndromes] at hcoeff
  rw [hw.card_erased] at hi ⊢
  rw [φ.coeff_poly, modifiedSyndromes, coeff_drop, coeff_padTo fun k hk => by rw [hcoeff, if_neg (Nat.not_lt.2 hk)],
    hcoeff, if_pos (by omega), ← φ.coeff_poly_mul, hw.poly_rsErasureLocator φ h, mul_comm]

/-- The locator search finds the error locator. -/
theorem WithinCapacity.poly_rsBerlekampMassey (hw : WithinCapacity s recv c erased r) (h : s.FieldReady) :
    φ.poly (rsBerlekampMassey s.tables (modifiedSyndromes s.tables s.fieldGen recv r erased)).1 =
        locatorPoly φ.locator (errorDegrees recv c erased) ∧
      (rsBerlekampMassey s.tables (modifiedSyndromes s.tables s.fieldGen recv r erased)).2 =
        (errorDegrees recv c erased).card := by
  have hlen : (modifiedSyndromes s.tables s.fieldGen recv r erased).length =
      r - (erasedDegrees recv.length erased).toFinset.card := by
    rw [modifiedSyndromes, List.length_drop, length_padTo, hw.card_erased]
  obtain ⟨hgen, hshort⟩ := generates_rsBerlekampMassey h φ (modifiedSyndromes s.tables s.fieldGen recv r erased)
  rw [hlen] at hgen hshort
  refine (hw.locators φ h).eq_of_shortest (hw.isSyndromeOf φ h) hw.disjoint (fun d hd => ?_) ?_
    (fun i hi => hw.coeff_modifiedSyndromes φ h hi) hgen hshort
  · exact mt φ.map_eq_zero_iff.1 (hw.mem_errorDegrees.1 hd).2.2
  · rw [hw.card_erased]
    exact hw.card_le

/-- The root search finds the errors: the roots of the error locator are the inverse locators. -/
theorem WithinCapacity.mem_rsChien (hw : WithinCapacity s recv c erased r) (h : s.FieldReady) {lam : List Byte}
    (hlam : φ.poly lam = locatorPoly φ.locator (errorDegrees recv c erased)) {d : ℕ} :
    d ∈ rsChien s.tables lam ↔ d ∈ errorDegrees recv c erased := by
  have hB : ∀ m ∈ errorDegrees recv c erased, m < 255 := fun m hm =>
    (hw.mem_errorDegrees.1 hm).1.trans_le hw.length_le
  rw [h.mem_rsChien]
  constructor
  · rintro ⟨hd, hroot⟩
    have hins : ∀ m ∈ insert d (errorDegrees recv c erased), m < 255 := by
      simpa using ⟨hd, hB⟩
    have hloc := φ.locators h hins
    rw [← φ.map_eq_zero_iff, ← φ.eval_poly, φ.map_alpha_sub h hd.le, hlam,
      eval_inv_locatorPoly_eq_zero_iff (hloc.ne_zero d (Finset.mem_insert_self d _))] at hroot
    obtain ⟨m, hm, hmd⟩ := hroot
    rwa [← hloc.inj m (Finset.mem_insert_of_mem hm) d (Finset.mem_insert_self d _) hmd]
  · intro hd
    have hlt := hB d hd
    rw [← φ.map_eq_zero_iff, ← φ.eval_poly, φ.map_alpha_sub h hlt.le, hlam,
      eval_inv_locatorPoly_eq_zero_iff ((φ.locators h hB).ne_zero d hd)]
    exact ⟨hlt, d, hd, rfl⟩

theorem length_rsChien_eq {t : FieldTables} {lam : List Byte} {B : Finset ℕ} (hroots : ∀ d, d ∈ rsChien t lam ↔ d ∈ B) :
    (rsChien t lam).length = B.card := by
  rw [← List.toFinset_card_of_nodup ((pairwise_rsChien t lam).imp Nat.ne_of_lt)]
  congr 1
  ext d
  rw [List.mem_toFinset, hroots]

/-- The evaluator is the polynomial of Forney's formula. -/
theorem WithinCapacity.poly_rsEvaluator (hw : WithinCapacity s recv c erased r) (h : s.FieldReady) {psi : List Byte}
    (hpsi : φ.poly psi = locatorPoly φ.locator (errataDegrees recv c erased)) :
    φ.poly (rsEvaluator s.tables (rsSyndromes s.tables s.fieldGen (eraseAll recv erased) r) psi) =
      evaluatorPoly φ.locator (φ.errata recv c erased) (errataDegrees recv c erased) := by
  refine Polynomial.ext fun k => ?_
  rw [φ.coeff_poly, h.coeff_rsEvaluator, length_rsSyndromes]
  split
  · rw [← φ.coeff_poly_mul, hpsi, (hw.isSyndromeOf φ h).coeff_mul_locatorPoly ‹_›]
  · have hcard : (errataDegrees recv c erased).card = _ := Finset.card_union_of_disjoint hw.disjoint
    have hcap := hw.card_le
    rw [hw.card_erased] at hcard
    rw [φ.map_zero, coeff_evaluatorPoly_eq_zero (by omega)]

/-- Every erratum gets its value as magnitude. -/
theorem WithinCapacity.rsMagnitude_eq (hw : WithinCapacity s recv c erased r) (h : s.FieldReady) {psi om : List Byte}
    (hpsi : φ.poly psi = locatorPoly φ.locator (errataDegrees recv c erased))
    (hom : φ.poly om = evaluatorPoly φ.locator (φ.errata recv c erased) (errataDegrees recv c erased)) {d : ℕ}
    (hd : d ∈ errataDegrees recv c erased) :
    rsMagnitude s.tables om psi d = .ok (errataValue (eraseAll recv erased) c d) := by
  have hlt : d < 255 := (hw.lt_of_mem_errataDegrees hd).trans_le hw.length_le
  have hloc := hw.locators φ h
  have heval : ∀ p : List Byte, φ.map (polyValue s.fieldPoly p (s.alpha (255 - d))) = (φ.poly p).eval (φ.locator d)⁻¹ :=
    fun p => by rw [← φ.map_alpha_sub h hlt.le, φ.eval_poly]
  have hden : polyValue s.fieldPoly (formalDeriv psi) (s.alpha (255 - d)) ≠ 0 := by
    rw [Ne, ← φ.map_eq_zero_iff, heval, φ.poly_formalDeriv, hpsi]
    exact hloc.eval_derivative_ne_zero hd
  have hspec := congrArg φ.map (h.forneyMagnitude_spec om (by omega) hden)
  rw [φ.map_gfMulx, φ.map_gfMulx, heval, heval, φ.poly_formalDeriv, hpsi, hom] at hspec
  have hmag := hloc.forney hd hspec
  rw [φ.neg_eq] at hmag
  rw [h.rsMagnitude_of_ne_zero om hden, φ.injective hmag]

end

/-! #### The correction -/

theorem correctAll_cons (w : List Byte) (n d : ℕ) (m : Byte) (errata : List (ℕ × Byte)) :
    correctAll w n ((d, m) :: errata) = correctAll (w.set (n - 1 - d) (coeff w (n - 1 - d) ^^^ m)) n errata := rfl

/-- What correcting at distinct degrees does to the symbol of position i. -/
theorem coeff_correctAll {w : List Byte} {n : ℕ} (hn : w.length = n) {locs : List ℕ} (hnodup : locs.Nodup)
    (hlt : ∀ d ∈ locs, d < n) (mag : ℕ → Byte) {i : ℕ} (hi : i < n) :
    coeff (correctAll w n (locs.map fun d => (d, mag d))) i =
      if n - 1 - i ∈ locs then coeff w i ^^^ mag (n - 1 - i) else coeff w i := by
  induction locs generalizing w with
  | nil => rfl
  | cons d ds ih =>
    obtain ⟨hd, hds⟩ := List.nodup_cons.1 hnodup
    obtain ⟨hdn, hdsn⟩ := List.forall_mem_cons.1 hlt
    rw [List.map_cons, correctAll_cons, ih (by rw [List.length_set, hn]) hds hdsn]
    by_cases hdi : n - 1 - i = d
    · obtain rfl : i = n - 1 - d := by omega
      rw [hdi, if_neg hd, if_pos List.mem_cons_self, coeff_set_same _ (by omega)]
    · rw [coeff_set_other _ (by omega)]
      simp only [List.mem_cons, hdi, false_or]

/-- Adding every erratum gives the codeword back. -/
theorem correctAll_eq {w c : List Byte} {locs : List ℕ} (hlen : w.length = c.length) (hnodup : locs.Nodup)
    (hlt : ∀ d ∈ locs, d < w.length) (hother : ∀ d < w.length, d ∉ locs → errataValue w c d = 0) :
    correctAll w w.length (locs.zip (locs.map (errataValue w c))) = c := by
  have hzip : locs.zip (locs.map (errataValue w c)) = locs.map fun d => (d, errataValue w c d) := by
    simpa using List.zip_map' (f := id) (g := errataValue w c) (l := locs)
  rw [hzip]
  refine eq_of_coeff_eq ((length_correctAll _ _ _).trans hlen) fun i hi => ?_
  rw [length_correctAll] at hi
  have hback : w.length - 1 - (w.length - 1 - i) = i := by omega
  rw [coeff_correctAll rfl hnodup hlt _ hi]
  split
  · rw [errataValue, hback, ← BitVec.xor_assoc, BitVec.xor_self, BitVec.zero_xor]
  · have hzero := hother (w.length - 1 - i) (by omega) ‹_›
    rw [errataValue, hback] at hzero
    exact byte_xor_eq_zero_iff.1 hzero

theorem WithinCapacity.correctAll_eraseAll {s : State} {recv c erased : List Byte} {r : ℕ}
    (hw : WithinCapacity s recv c erased r) {locs : List ℕ} (hnodup : locs.Nodup)
    (hlocs : ∀ d, d ∈ locs ↔ d ∈ errataDegrees recv c erased) :
    correctAll (eraseAll recv erased) recv.length (locs.zip (locs.map (errataValue (eraseAll recv erased) c))) = c := by
  have hlen : (eraseAll recv erased).length = recv.length := length_eraseAll _ _
  rw [← hlen]
  exact correctAll_eq (hlen.trans hw.length_eq) hnodup
    (fun d hd => by rw [hlen]; exact hw.lt_of_mem_errataDegrees ((hlocs d).1 hd))
    fun d hd hnot => hw.errataValue_eq_zero (by rwa [hlen] at hd) (mt (hlocs d).2 hnot)

/-- The decoder corrects every word within capacity of a codeword. -/
theorem WithinCapacity.rsDecode_eq {s : State} {recv c erased : List Byte} {r : ℕ}
    (hw : WithinCapacity s recv c erased r) (h : s.FieldReady) :
    rsDecode s.tables s.fieldGen recv r erased = .ok (c.take (recv.length - r)) := by
  obtain ⟨F, _, ⟨φ⟩⟩ := h.exists_fieldMap
  obtain ⟨hlam, hcard⟩ := hw.poly_rsBerlekampMassey φ h
  have hcap := hw.card_le
  generalize hbm : rsBerlekampMassey s.tables (modifiedSyndromes s.tables s.fieldGen recv r erased) = bm at hlam hcard
  obtain ⟨lam, len⟩ := bm
  obtain rfl : len = (errorDegrees recv c erased).card := hcard
  have hchien : ∀ d, d ∈ rsChien s.tables lam ↔ d ∈ errorDegrees recv c erased := fun d => hw.mem_rsChien φ h hlam
  have hpsi : φ.poly (polyMul s.tables lam (rsErasureLocator s.tables recv.length erased)) =
      locatorPoly φ.locator (errataDegrees recv c erased) := by
    rw [φ.poly_polyMul h, hlam, hw.poly_rsErasureLocator φ h, errataDegrees, locatorPoly_union _ hw.disjoint, mul_comm]
  have hlocs : ∀ d, d ∈ erasedDegrees recv.length erased ++ rsChien s.tables lam ↔ d ∈ errataDegrees recv c erased :=
    fun d => by rw [List.mem_append, hchien, errataDegrees, Finset.mem_union, List.mem_toFinset]
  have hnodup : (erasedDegrees recv.length erased ++ rsChien s.tables lam).Nodup :=
    (nodup_erasedDegrees hw.legal).append ((pairwise_rsChien _ _).imp Nat.ne_of_lt) fun d hA hB =>
      (hw.mem_errorDegrees.1 ((hchien d).1 hB)).2.1 hA
  refine rsDecode_eq_ok ⟨hw.parity_lt, hw.length_le⟩ hw.legal (by omega) hbm hcap (length_rsChien_eq hchien)
    (fun d hd => ?_) rfl rfl (rsForney_eq_map fun d hd => hw.rsMagnitude_eq φ h hpsi (hw.poly_rsEvaluator φ h hpsi)
      ((hlocs d).1 hd)) (hw.correctAll_eraseAll hnodup hlocs) ((h.rsSyndromes_eq_zero_iff c r).2 hw.codeword)
  obtain ⟨hlt, hnot, -⟩ := hw.mem_errorDegrees.1 ((hchien d).1 hd)
  exact ⟨hlt, fun p hp hpd => hnot (List.mem_map.2 ⟨p, hp, hpd.symm⟩)⟩

/-! ### The commands RSDEC and RSDECE (R215, R216) -/

theorem legalErasures_nil (n : ℕ) : LegalErasures n [] := ⟨nofun, List.nodup_nil⟩

/-- RSDEC and RSDECE of a word within capacity of a codeword. -/
theorem WithinCapacity.decodes {s : State} {vs : VReg} {rt : XReg} {c erased : List Byte}
    (hw : WithinCapacity s s.v[vs] c erased s.x[rt].toNat) (h : s.FieldReady) (vd : VReg) :
    ∃ t, runCommand s (rsDecode s.tables s.fieldGen s.v[vs] s.x[rt].toNat erased >>= fun data =>
      done (s.setV vd data)) = .next t ∧ VectorWritten s t vd (c.take (c.length - s.x[rt].toNat)) := by
  rw [hw.rsDecode_eq h, hw.length_eq, ok_bind, runCommand_done]
  exact ⟨_, rfl, vectorWritten_complete s vd _⟩

/-- Settles O50: within capacity the locator search finds the errors, and Forney's formula every erratum. -/
theorem decodeCorrectsWithinCapacity : Obligations.DecodeCorrectsWithinCapacity := by
  intro s vd vs ve rt c h hlt hle hcode hlen
  rw [h.exec_rsdec, h.exec_rsdece]
  have hlt' : s.x[rt].toNat < s.v[vs].length := hlen ▸ hlt
  have hle' : s.v[vs].length ≤ 255 := hlen ▸ hle
  refine ⟨fun hcap => ?_, fun hlegal hcap => ?_⟩
  · exact WithinCapacity.decodes ⟨hlen, hlt', hle', hcode, legalErasures_nil _, (Nat.zero_add _).trans_le hcap⟩ h vd
  · exact WithinCapacity.decodes ⟨hlen, hlt', hle', hcode, hlen ▸ hlegal, hcap⟩ h vd

theorem errorCount_self (recv erased : List Byte) : errorCount recv recv erased = 0 := by
  simp [errorCount]

/-- RSDECE without erasures is RSDEC, in every state. -/
theorem exec_rsdece_of_nil {s : State} {ve : VReg} (hve : s.v[ve] = []) (vd vs : VReg) (rt : XReg) :
    exec (.rsdece vd vs rt ve) s = exec (.rsdec vd vs rt) s := by
  simp only [exec, execRsdec, execRsdece, hve]

/-- Settles O48: a codeword is within capacity of itself. -/
theorem decodeOfCodewordReturnsData : Obligations.DecodeOfCodewordReturnsData := by
  refine ⟨fun s vd vs ve rt h hlt hle hcode => ?_, fun s vd vs ve rt hve => exec_rsdece_of_nil hve vd vs rt⟩
  have hcap : 2 * errorCount s.v[vs] s.v[vs] [] ≤ s.x[rt].toNat := by simp [errorCount_self]
  obtain ⟨hdec, -⟩ := decodeCorrectsWithinCapacity s vd vs ve rt s.v[vs] h hlt hle hcode rfl
  exact ⟨hdec hcap, fun hve => exec_rsdece_of_nil hve vd vs rt ▸ hdec hcap⟩

end Sys2Proof.Machine

namespace Sys2Proof.Machine

/-! ### The CRC table (46_crc.md R223 to R225)

Shifting the register is additive. So a byte is divided in by dividing the top 8 bits of the register and the byte
alone, which is what the table holds, while the bits below them move up without feedback. -/

theorem truncTo_xor (W : Nat) (a b : Word) : truncTo W (a ^^^ b) = truncTo W a ^^^ truncTo W b := by
  simp [truncTo]

theorem zextByte_xor (a b : Byte) : zextByte (a ^^^ b) = zextByte a ^^^ zextByte b :=
  BitVec.setWidth_xor

/-- A shift as a sum: the bits that move up, and the polynomial under the bit that moves out. -/
theorem crcShift_eq (W : Nat) (poly reg : Word) :
    crcShift W poly reg = truncTo W (reg <<< 1) ^^^ if reg.getLsbD (W - 1) then poly else 0 := by
  rw [crcShift]
  split
  · rfl
  · exact (BitVec.xor_zero).symm

theorem ite_xor_zero (p q : Bool) (a : Word) :
    (if p ^^ q then a else 0) = (if p then a else 0) ^^^ (if q then a else 0) := by
  cases p <;> cases q <;> simp

theorem crcShift_xor (W : Nat) (poly a b : Word) :
    crcShift W poly (a ^^^ b) = crcShift W poly a ^^^ crcShift W poly b := by
  simp only [crcShift_eq, BitVec.getLsbD_xor, BitVec.shiftLeft_xor_distrib, truncTo_xor, ite_xor_zero]
  ac_rfl

/-- Division is additive: the register and the byte may be divided apart. -/
theorem crcShifts_xor (W : Nat) (poly : Word) (n : Nat) (a b : Word) :
    crcShifts W poly n (a ^^^ b) = crcShifts W poly n a ^^^ crcShifts W poly n b := by
  induction n generalizing a b with
  | zero => rfl
  | succ n ih => simp only [crcShifts, crcShift_xor, ih]

theorem truncTo_of_lt {W : Nat} (hW : W ≤ 32) {v : Word} (h : v.toNat < 2 ^ W) : truncTo W v = v :=
  BitVec.eq_of_toNat_eq (by rw [toNat_truncTo W v hW, Nat.mod_eq_of_lt h])

/-- The bits above a value that fits n bits are 0. -/
theorem getLsbD_of_toNat_lt {n i : Nat} {v : Word} (h : v.toNat < 2 ^ n) (hi : n ≤ i) : v.getLsbD i = false :=
  Nat.testBit_lt_two_pow (h.trans_le (Nat.pow_le_pow_right (by decide) hi))

/-- Shifting left without loss. -/
theorem toNat_shiftLeft_of_lt {W n : Nat} (hW : W ≤ 32) {v : Word} (h : v.toNat * 2 ^ n < 2 ^ W) :
    (v <<< n).toNat = v.toNat * 2 ^ n := by
  have hle : 2 ^ W ≤ 2 ^ 32 := Nat.pow_le_pow_right (by decide) hW
  rw [BitVec.toNat_shiftLeft, Nat.shiftLeft_eq, Nat.mod_eq_of_lt (h.trans_le hle)]

/-- A register whose top bit is clear moves up without feedback. -/
theorem crcShift_of_lt {W : Nat} (hW : W ≤ 32) (poly : Word) {reg : Word} (h : reg.toNat * 2 < 2 ^ W) :
    crcShift W poly reg = reg <<< 1 := by
  have hfits : reg.toNat < 2 ^ (W - 1) := by
    cases W with
    | zero => omega
    | succ W => simpa [pow_succ] using h
  have hclear : reg.getLsbD (W - 1) = false := getLsbD_of_toNat_lt hfits le_rfl
  have hshift : (reg <<< 1).toNat = reg.toNat * 2 := toNat_shiftLeft_of_lt (n := 1) hW h
  rw [crcShift, hclear, if_neg Bool.false_ne_true, truncTo_of_lt hW (hshift ▸ h)]

/-- A register whose top n bits are clear moves up by n without feedback. -/
theorem crcShifts_of_lt {W : Nat} (hW : W ≤ 32) (poly : Word) {n : Nat} {reg : Word} (h : reg.toNat * 2 ^ n < 2 ^ W) :
    crcShifts W poly n reg = reg <<< n := by
  induction n generalizing reg with
  | zero => exact (BitVec.shiftLeft_zero reg).symm
  | succ n ih =>
    rw [pow_succ', ← mul_assoc] at h
    have hone : reg.toNat * 2 < 2 ^ W := (Nat.le_mul_of_pos_right _ (by positivity)).trans_lt h
    rw [crcShifts, crcShift_of_lt hW poly hone, ih, ← BitVec.shiftLeft_add, Nat.add_comm]
    rwa [toNat_shiftLeft_of_lt (n := 1) hW hone]

/-- A register of W bits is its top byte and the W - 8 bits below it: bit i comes from one of the two when i < W, and
is 0 from W on. -/
theorem eq_topByte_xor_truncTo {W : Nat} (h8 : 8 ≤ W) {reg : Word} (h : reg.toNat < 2 ^ W) :
    reg = zextByte (lowByte (reg >>> (W - 8))) <<< (W - 8) ^^^ truncTo (W - 8) reg := by
  ext i hi
  have hfits : W ≤ i → reg.getLsbD i = false := getLsbD_of_toNat_lt h
  simp only [← BitVec.getLsbD_eq_getElem, BitVec.getLsbD_xor, BitVec.getLsbD_shiftLeft, zextByte, lowByte,
    BitVec.getLsbD_setWidth, BitVec.getLsbD_ushiftRight, getLsbD_truncTo]
  grind

/-- The bits below the top byte move up by 8 and leave W bits. -/
theorem truncTo_shiftLeft_eight {W : Nat} (h8 : 8 ≤ W) (reg : Word) :
    truncTo W (reg <<< 8) = truncTo (W - 8) reg <<< 8 := by
  ext i hi
  simp only [← BitVec.getLsbD_eq_getElem, getLsbD_truncTo, BitVec.getLsbD_shiftLeft]
  grind

/-- All that the division needs of the legal widths. -/
theorem bounds_of_mem_crcWidths {W : Nat} (h : W ∈ [8, 16, 32]) : 8 ≤ W ∧ W ≤ 32 := by
  simp only [List.mem_cons, List.not_mem_nil, or_false] at h
  omega

/-- Settles O53: the top byte meets the message byte and is divided with it; the rest moves up. -/
theorem crcTableFoldEqualsBitSerialDivision : Obligations.CrcTableFoldEqualsBitSerialDivision := by
  intro W refin poly reg b hmem _ hreg
  obtain ⟨h8, hW⟩ := bounds_of_mem_crcWidths hmem
  set top := lowByte (reg >>> (W - 8))
  set low := truncTo (W - 8) reg
  set byte := crcInputByte refin b
  have hlow : low.toNat * 2 ^ 8 < 2 ^ W := by
    have := truncTo_toNat_lt (W := W - 8) (by omega) reg
    rw [← Nat.sub_add_cancel h8, pow_add]
    exact Nat.mul_lt_mul_of_pos_right this (by positivity)
  have hsplit : reg ^^^ zextByte byte <<< (W - 8) = zextByte (top ^^^ byte) <<< (W - 8) ^^^ low := by
    rw [zextByte_xor, BitVec.shiftLeft_xor_distrib, BitVec.xor_comm (_ <<< _), BitVec.xor_assoc,
      ← eq_topByte_xor_truncTo h8 hreg, BitVec.xor_comm]
  calc crcUpdate W refin (crcBuildTable W poly) reg b
      = truncTo W (reg <<< 8) ^^^ crcTableEntry W poly (top ^^^ byte) := by
        simp [crcUpdate, top, byte]
    _ = crcTableEntry W poly (top ^^^ byte) ^^^ crcShifts W poly 8 low := by
        rw [truncTo_shiftLeft_eight h8, crcShifts_of_lt hW poly hlow, BitVec.xor_comm]
    _ = crcBitSerial W refin poly reg b := by
        rw [crcBitSerial, hsplit, crcShifts_xor, crcTableEntry]

/-! ### CRCINIT (R222, R223) -/

/-- Shifting a lone top bit out leaves the polynomial. -/
theorem crcShift_topBit {W : Nat} (hpos : 0 < W) (hW : W ≤ 32) (poly : Word) :
    crcShift W poly (1#32 <<< (W - 1)) = poly := by
  have hlt : W - 1 < 32 := by omega
  have htop : (1#32 <<< (W - 1)).getLsbD (W - 1) = true := by simp [hlt]
  have hout : truncTo W (1#32 <<< (W - 1) <<< 1) = 0#32 := by
    ext i hi
    simp only [← BitVec.getLsbD_eq_getElem, getLsbD_truncTo, BitVec.getLsbD_shiftLeft, BitVec.getLsbD_one]
    grind
  rw [crcShift, if_pos htop, hout, BitVec.zero_xor]

/-- CRCTAB[1]: the polynomial is what one bit of the message leaves. -/
theorem crcTableEntry_one {W : Nat} (h8 : 8 ≤ W) (hW : W ≤ 32) (poly : Word) : crcTableEntry W poly 1 = poly := by
  have hone : (1#32 <<< (W - 8)).toNat = 2 ^ (W - 8) := by
    have hlt : 2 ^ (W - 8) < 2 ^ W := Nat.pow_lt_pow_right (by decide) (by omega)
    simpa using toNat_shiftLeft_of_lt (v := 1#32) hW (by simpa using hlt)
  have hfits : (1#32 <<< (W - 8)).toNat * 2 ^ 7 < 2 ^ W := by
    rw [hone, ← pow_add]
    exact Nat.pow_lt_pow_right (by decide) (by omega)
  have hbit : crcShifts W poly 7 (1#32 <<< (W - 8)) = 1#32 <<< (W - 1) := by
    rw [crcShifts_of_lt hW poly hfits, ← BitVec.shiftLeft_add, show W - 8 + 7 = W - 1 by omega]
  rw [crcTableEntry, crcShifts_add W poly 7 1, show zextByte 1 = 1#32 from rfl, hbit]
  exact crcShift_topBit (by omega) hW poly

/-- CRCTAB[0]: without a 1 there is no feedback. -/
theorem crcTableEntry_zero {W : Nat} (hW : W ≤ 32) (poly : Word) : crcTableEntry W poly 0 = 0 := by
  rw [crcTableEntry, show zextByte 0 <<< (W - 8) = 0 by simp [zextByte], crcShifts_of_lt hW poly (by simp)]
  exact BitVec.zero_shiftLeft 8

/-- Settles O52: the two outcomes are `execCrcinit_ok` and `execCrcinit_fails`. -/
theorem crcinitBuildsTable : Obligations.CrcinitBuildsTable := by
  refine ⟨fun s h => ?_, fun s h => ⟨_, execCrcinit_fails h, failedWith_complete s _⟩⟩
  obtain ⟨h8, hW⟩ := bounds_of_mem_crcWidths h.1
  refine ⟨_, execCrcinit_ok h, rfl, fun i => ?_, ?_, ?_⟩
  · have hbyte : BitVec.ofNat 8 i = BitVec.ofFin i := BitVec.eq_of_toNat_eq (Nat.mod_eq_of_lt i.isLt)
    exact hbyte ▸ crcBuildTable_getElem s.crcWidth s.crcPoly i i.isLt
  · exact (crcBuildTable_getElem s.crcWidth s.crcPoly 0 _).trans (crcTableEntry_zero hW _)
  · exact (crcBuildTable_getElem s.crcWidth s.crcPoly 1 _).trans (crcTableEntry_one h8 hW _)

/-! ### The commands of a ready CRC unit (R226 to R229, R231, R232) -/

section
variable {s : State} (h : s.status.crdy = true)
include h

theorem exec_crcrst : exec .crcrst s = .next (State.complete { s with crcReg := s.crcInit } .ok 0) :=
  runCommand_require_pos s h _ _

theorem exec_crcupd (vs : VReg) : exec (.crcupd vs) s =
    .next (State.complete { s with crcReg := s.crcRegAfter s.crcReg s.v[vs] } .ok 0) :=
  runCommand_require_pos s h _ _

theorem exec_crcfin (rd : XReg) :
    exec (.crcfin rd) s = .next ((s.setX rd (s.crcChecksum s.crcReg)).complete .ok 0) :=
  runCommand_require_pos s h _ _

theorem exec_crc (rd : XReg) (vs : VReg) : exec (.crc rd vs) s =
    .next (State.complete (State.setX { s with crcReg := s.crcRegAfter s.crcInit s.v[vs] } rd
      (s.crcChecksum (s.crcRegAfter s.crcInit s.v[vs]))) .ok 0) :=
  runCommand_require_pos s h _ _

end

/-- Byte after byte, the table of CRCINIT divides the message: the register fits its width throughout. -/
theorem crcFold_eq_bitSerial {W : Nat} (hW : W ∈ [8, 16, 32]) {poly : Word} (hp : poly.toNat < 2 ^ W) (refin : Bool)
    {reg : Word} (hreg : reg.toNat < 2 ^ W) (msg : List Byte) :
    crcFold W refin (crcBuildTable W poly) reg msg = msg.foldl (crcBitSerial W refin poly) reg := by
  unfold crcFold
  induction msg generalizing reg with
  | nil => rfl
  | cons b msg ih =>
    rw [List.foldl_cons, List.foldl_cons, ← crcTableFoldEqualsBitSerialDivision W refin poly reg b hW hp hreg]
    exact ih (crcUpdate_toNat_lt (bounds_of_mem_crcWidths hW).2 hp refin reg b)

/-- A ready CRC unit folds a message in by bit-serial division. -/
theorem State.CrcReady.crcRegAfter_eq {s : State} (h : s.CrcReady) {reg : Word} (hreg : reg.toNat < 2 ^ s.crcWidth)
    (msg : List Byte) :
    s.crcRegAfter reg msg = msg.foldl (crcBitSerial s.crcWidth (s.crcCfg.getLsbD 8) s.crcPoly) reg := by
  obtain ⟨hinv, hready⟩ := h
  obtain ⟨⟨hw, -, hp, -, -⟩, htab⟩ := hinv.crcTable hready
  rw [State.crcRegAfter, htab]
  exact crcFold_eq_bitSerial hw hp _ hreg msg

/-- Bit i of `bitrev_W`. -/
theorem getLsbD_bitrev {W : Nat} (hW : W ≤ 32) (v : Word) (i : Nat) :
    (bitrev W v).getLsbD i = (decide (i < W) && v.getLsbD (W - 1 - i)) := by
  simp only [bitrev, BitVec.getLsbD_setWidth, BitVec.getLsbD_reverse, BitVec.getMsbD_eq_getLsbD]
  grind

/-- Bit i of a checksum (R231). -/
theorem getLsbD_crcChecksum {s : State} (hW : s.crcWidth ≤ 32) (reg : Word) (i : Nat) :
    (s.crcChecksum reg).getLsbD i =
      ((if s.crcCfg.getLsbD 9 then decide (i < s.crcWidth) && reg.getLsbD (s.crcWidth - 1 - i) else reg.getLsbD i) ^^
        s.crcXorout.getLsbD i) := by
  rw [State.crcChecksum, crcFinalize, BitVec.getLsbD_xor, State.crcRefout]
  split
  · rw [getLsbD_bitrev hW]
  · rfl

/-- Settles O54: each command runs past its one check, and a ready unit folds by bit-serial division. -/
theorem crcCommandsComplete : Obligations.CrcCommandsComplete := by
  intro s rd vs h
  obtain ⟨hinv, hready⟩ := h
  obtain ⟨hok, -⟩ := hinv.crcTable hready
  have checksum reg i (_ : i < 32) := getLsbD_crcChecksum (le_32_of_mem_crcWidths hok.1) reg i
  simp only [← State.CrcReady.crcRegAfter_eq ⟨hinv, hready⟩ (hinv.crcRegFits hready),
    ← State.CrcReady.crcRegAfter_eq ⟨hinv, hready⟩ (crcInit_toNat_lt hok)]
  exact ⟨⟨_, exec_crcrst hready, okFrom_complete _ 0⟩, ⟨_, exec_crcupd hready vs, okFrom_complete _ 0⟩,
    ⟨_, _, exec_crcfin hready rd, scalarWritten_complete s rd _, checksum _⟩,
    ⟨_, _, exec_crc hready rd vs, scalarWritten_complete _ rd _, checksum _⟩⟩

/-- Settles O55: a command that completes `OK` leaves `CRDY`, so the next one runs past its check too, and a message is
folded in byte by byte. -/
theorem crcOneShotAndPartsAgree : Obligations.CrcOneShotAndPartsAgree := by
  have keeps (s : State) (h : s.status.crdy = true) (reg : Word) :
      (State.complete { s with crcReg := reg } .ok 0).status.crdy = true := h
  refine ⟨fun s rd vs h => ?_, fun s va vb vc h hcat => ?_⟩
  · exact ⟨_, _, _, _, exec_crcrst h, exec_crcupd (keeps _ h _) vs, exec_crcfin (keeps _ (keeps _ h _) _) rd,
      exec_crc h rd vs, rfl⟩
  · refine ⟨_, _, _, exec_crcupd h va, exec_crcupd (keeps _ h _) vb, exec_crcupd h vc, ?_⟩
    simp only [hcat, State.crcRegAfter, crcFold_append]
    rfl

end Sys2Proof.Machine

namespace Sys2Proof.Machine

/-! ### The step of the LFSR (47_lfsr.md R243, R245) -/

/-- An exclusive or over a list is true exactly when an odd number of its bits are. -/
theorem foldr_xor_iff {α : Type} (f : α → Bool) (l : List α) :
    l.foldr (fun i p => f i ^^ p) false = true ↔ (l.filter f).length % 2 = 1 := by
  induction l with
  | nil => simp
  | cons a l ih =>
    cases hf : f a with
    | false => simpa [hf] using ih
    | true =>
      have hodd (n : Nat) : (n + 1) % 2 = 1 ↔ ¬ n % 2 = 1 := by omega
      simp [hf, hodd, ← ih]

theorem parity_iff (v : Word) :
    parity v = true ↔ ((List.range 32).filter fun i => v.getLsbD i).length % 2 = 1 :=
  foldr_xor_iff _ _

/-- The step bit by bit: the feedback at bit w-1, which the shift leaves clear, and the bit above everywhere else. -/
theorem getLsbD_lfsrNext {w : Nat} (hpos : 1 ≤ w) (hw : w ≤ 32) (taps : Word) {st : Word} (hst : st.toNat < 2 ^ w)
    (i : Nat) :
    (lfsrNext w taps st).getLsbD i = if i + 1 = w then parity (st &&& taps) else st.getLsbD (i + 1) := by
  have hclear : w ≤ i + 1 → st.getLsbD (i + 1) = false := getLsbD_of_toNat_lt hst
  simp only [lfsrNext, BitVec.getLsbD_or, BitVec.getLsbD_ushiftRight, BitVec.getLsbD_shiftLeft,
    BitVec.getLsbD_setWidth, BitVec.getLsbD_ofBool]
  grind

/-- A state that fits the width steps to one that fits it. -/
theorem lfsrNext_toNat_lt {w : Nat} (hpos : 1 ≤ w) (hw : w ≤ 32) (taps : Word) {st : Word} (hst : st.toNat < 2 ^ w) :
    (lfsrNext w taps st).toNat < 2 ^ w := by
  refine Nat.lt_pow_two_of_testBit _ fun i hi => ?_
  rw [BitVec.testBit_toNat, getLsbD_lfsrNext hpos hw taps hst, if_neg (by omega)]
  exact getLsbD_of_toNat_lt hst (by omega)

theorem lfsrNext_zero (w : Nat) (taps : Word) : lfsrNext w taps 0 = 0 := by
  have hparity : parity 0#32 = false := rfl
  simp [lfsrNext, hparity]

/-- Settles O59: only the states 0 and 1 shift to 0, and from 1 the tapped bit 0 feeds a 1 back in. -/
theorem lfsrZeroIsFixedPoint : Obligations.LfsrZeroIsFixedPoint := by
  refine ⟨fun w taps => ⟨lfsrNext_zero w taps, rfl⟩, fun w taps st hpos hw htap hst hne hzero => ?_⟩
  have hshift : st >>> 1 = 0 := (BitVec.or_eq_zero_iff.1 hzero).1
  have hone : st = 1 := by bv_omega
  have htapped : 1 &&& taps = 1 := by
    ext i hi
    cases i with
    | zero => simpa using htap
    | succ i => simp
  have hfeedback : (lfsrNext w taps st).getLsbD (w - 1) = true := by
    rw [getLsbD_lfsrNext hpos hw taps hst, if_pos (by omega), hone, htapped]
    rfl
  simp [hzero] at hfeedback

/-! ### Many steps (R246) -/

/-- Until the feedback reaches them, the bits of the state held before move down by one place a step. -/
theorem getLsbD_lfsrAfter {w : Nat} (hpos : 1 ≤ w) (hw : w ≤ 32) (taps : Word) {st : Word} (hst : st.toNat < 2 ^ w)
    {k i : Nat} (hk : k + i < w) : (lfsrAfter w taps k st).getLsbD i = st.getLsbD (k + i) := by
  induction k generalizing st with
  | zero => rw [lfsrAfter, Nat.zero_add]
  | succ k ih =>
    rw [lfsrAfter, ih (lfsrNext_toNat_lt hpos hw taps hst) (by omega), getLsbD_lfsrNext hpos hw taps hst,
      if_neg (by omega)]
    congr 1
    omega

/-- Bit k of the packed word is the output of step k. -/
theorem getLsbD_lfsrPack (w : Nat) (taps : Word) (n : Nat) (st : Word) {k : Nat} (hk : k < 32) :
    (lfsrPack w taps n st).getLsbD k = (decide (k < n) && (lfsrAfter w taps k st).getLsbD 0) := by
  induction n generalizing st k with
  | zero => simp [lfsrPack]
  | succ n ih =>
    cases k with
    | zero => simp [lfsrPack, lfsrAfter, lfsrOut]
    | succ k =>
      have hrest := ih (lfsrNext w taps st) (Nat.lt_of_succ_lt hk)
      rw [lfsrPack, BitVec.getLsbD_or, BitVec.getLsbD_shiftLeft, lfsrAfter, Nat.add_sub_cancel, hrest]
      simp [hk]

/-- As many steps as the register is wide put out the state held before. -/
theorem lfsrPack_width {w : Nat} (hpos : 1 ≤ w) (hw : w ≤ 32) (taps : Word) {st : Word} (hst : st.toNat < 2 ^ w) :
    lfsrPack w taps w st = st := by
  refine BitVec.eq_of_getLsbD_eq fun k hk => ?_
  rw [getLsbD_lfsrPack w taps w st hk]
  by_cases hkw : k < w
  · have hheld : (lfsrAfter w taps k st).getLsbD 0 = st.getLsbD k := getLsbD_lfsrAfter hpos hw taps hst hkw
    rw [hheld, decide_eq_true hkw, Bool.true_and]
  · simp [hkw, getLsbD_of_toNat_lt hst (Nat.not_lt.1 hkw)]

theorem lfsrPack_one (w : Nat) (taps st : Word) :
    lfsrPack w taps 1 st = (BitVec.ofBool (lfsrOut st)).setWidth 32 := by
  simp [lfsrPack]

/-! ### The LFSR commands (R241, R242, R244, R246) -/

theorem lfsrShapeOk_iff {s : State} : s.lfsrShapeOk = true ↔ s.LfsrShape := by
  rw [State.lfsrShapeOk, Bool.and_eq_true, Bool.and_eq_true, decide_eq_true_iff, decide_eq_true_iff, decide_eq_true_iff,
    and_assoc]
  rfl

theorem lfsrConfigOk_iff {s : State} : s.lfsrConfigOk = true ↔ s.LfsrReady := by
  simp [State.lfsrConfigOk, State.LfsrReady, lfsrShapeOk_iff]

/-- Two checks in a row with one failure are one check of both conditions. -/
theorem require_require_bind {c d : Prop} [Decidable c] [Decidable d] (f : Failure) {α : Type}
    (k : Unit → Except Failure α) :
    (require c f >>= fun _ => require d f >>= k) = (require (c ∧ d) f >>= k) := by
  by_cases hc : c <;> simp [hc]

/-- The three checks of LFSRSEED as one. -/
theorem exec_lfsrseed (s : State) (rs : XReg) :
    exec (.lfsrseed rs) s = runCommand s (require
      (s.lfsrShapeOk ∧ s.x[rs].toNat < 2 ^ s.lfsrWidth ∧ ¬ (s.x[rs] = 0 ∧ s.lfsrMaxlen)) .invalidParameters >>=
        fun _ => done { s with lfsrState := s.x[rs] }) := by
  rw [← require_require_bind, ← require_require_bind]
  rfl

/-- Settles O56: the one check of `exec_lfsrseed` is the condition of the statement. -/
theorem lfsrseedStoresLegalSeed : Obligations.LfsrseedStoresLegalSeed := by
  intro s rs
  rw [exec_lfsrseed, ← lfsrShapeOk_iff]
  exact ⟨fun hshape hfits hseed => ⟨_, runCommand_require_pos s ⟨hshape, hfits, hseed⟩ _ _, okFrom_complete _ 0⟩,
    fun hbad => ⟨_, runCommand_require_neg s hbad _ _, failedWith_complete s _⟩⟩

/-- The word LFSRSTEP writes is bit 0 of the state as a number. -/
theorem toNat_lfsrOut (st : Word) : ((BitVec.ofBool (lfsrOut st)).setWidth 32).toNat = st.toNat % 2 := by
  rw [BitVec.toNat_setWidth_of_le (by decide), BitVec.toNat_ofBool, lfsrOut, BitVec.getLsbD, Nat.testBit_zero]
  rcases Nat.mod_two_eq_zero_or_one st.toNat with h | h <;> simp [h]

/-- Settles O57: the configuration is the one check, and `getLsbD_lfsrNext` gives the new state. -/
theorem lfsrstepShiftsRight : Obligations.LfsrstepShiftsRight := by
  refine fun s rd => ⟨fun hready => ?_, fun hnot =>
    ⟨_, runCommand_require_neg s (mt lfsrConfigOk_iff.1 hnot) _ _, failedWith_complete s _⟩⟩
  have ⟨⟨hpos, hw, _⟩, hst⟩ := hready
  have hbits := getLsbD_lfsrNext hpos hw s.lfsrTaps hst
  refine ⟨_, _, _, runCommand_require_pos s (lfsrConfigOk_iff.2 hready) _ _, scalarWritten_complete _ rd _,
    toNat_lfsrOut _, lfsrNext_toNat_lt hpos hw _ hst, fun i hi => ?_, ?_⟩
  · rw [hbits, if_neg (by omega)]
  · rw [hbits, if_pos (by omega), parity_iff]

/-- An LFSRN whose count is legal goes on to the check of the configuration. -/
theorem exec_lfsrn {count : Byte} (hlow : 1 ≤ count.toNat) (hhigh : count.toNat ≤ 32) (s : State) (rd : XReg) :
    exec (.lfsrn rd count) s = runCommand s (require s.lfsrConfigOk .invalidParameters >>= fun _ =>
      done (State.setX { s with lfsrState := lfsrAfter s.lfsrWidth s.lfsrTaps count.toNat s.lfsrState } rd
        (lfsrPack s.lfsrWidth s.lfsrTaps count.toNat s.lfsrState))) :=
  runCommand_require_pos s ⟨hlow, hhigh⟩ _ _

/-- Settles O58: past the check of its count LFSRN checks the configuration, as LFSRSTEP does, and packs the outputs. -/
theorem lfsrnPacksSteps : Obligations.LfsrnPacksSteps := by
  refine ⟨fun s rd count hlow hhigh hready => ?_, fun s rd count hlow hhigh hnot => ?_, fun s rd => ?_⟩
  · have ⟨⟨hpos, hw, _⟩, hst⟩ := hready
    refine ⟨_, _, (exec_lfsrn hlow hhigh s rd).trans (runCommand_require_pos s (lfsrConfigOk_iff.2 hready) _ _),
      scalarWritten_complete _ rd _, fun k hk => getLsbD_lfsrPack _ _ _ _ hk, fun hcount => ?_⟩
    rw [hcount, lfsrPack_width hpos hw s.lfsrTaps hst]
  · exact ⟨_, (exec_lfsrn hlow hhigh s rd).trans (runCommand_require_neg s (mt lfsrConfigOk_iff.1 hnot) _ _),
      failedWith_complete s _⟩
  · rw [exec_lfsrn (by decide) (by decide), show (1 : Byte).toNat = 1 from rfl, lfsrPack_one]
    rfl

end Sys2Proof.Machine

namespace Sys2Proof.Machine

/-! ### The failures of a command (60_exceptions.md R263, R264) -/

/-- Settles O10: a command and a command word both run one body, whose failure is the one place where the state before
is completed with a code. -/
theorem failureChangesOnlyStatus : Obligations.FailureChangesOnlyStatus := by
  refine ⟨fun i s t f => exec_failedWith, fun s t w rest f hin hstep => ?_⟩
  rw [step_command hin] at hstep
  exact execWord_failedWith hstep

/-- Settles O16: a command's body raises what its checks and the functions it calls raise. -/
theorem failureCodesByCommand : Obligations.FailureCodesByCommand :=
  fun _ _ _ _ => exec_failure_mem_raisable

end Sys2Proof.Machine

namespace Sys2Proof.Machine

/-! ### What reset leaves (70_reset_and_hazards.md R290, R291) -/

@[simp] theorem applyReset_x (s : State) (r : XReg) : (applyReset s).x[r] = 0 :=
  Vector.getElem_replicate _

@[simp] theorem applyReset_v (s : State) (r : VReg) : (applyReset s).v[r] = [] :=
  Vector.getElem_replicate _

/-- Settles O6: beside the register files every field of `applyReset` is the value written for it. -/
theorem resetEventGivesResetState : Obligations.ResetEventGivesResetState := by
  intro s rest hin
  refine ⟨_, step_reset hin, applyReset_x _, applyReset_v _, ?_⟩
  simp [applyReset, State.reset]

/-! ### A failure stays visible in `STICKY` (70_reset_and_hazards.md R299) -/

/-- Between `s` and `t` no failure was lost: if `STICKY` is 0 in `t`, it was 0 in `s` and every response produced since
`s` is `OK`. The value in `s` makes the relation compose. -/
def State.FailuresStick (s t : State) : Prop :=
  ∃ new, t.responses = s.responses ++ new ∧
    (t.status.sticky = 0 → s.status.sticky = 0 ∧ ∀ r ∈ new, r.code = .ok)

theorem State.FailuresStick.refl (s : State) : s.FailuresStick s :=
  ⟨[], by simp, fun h => ⟨h, by simp⟩⟩

theorem State.FailuresStick.trans {s t u : State} (hst : s.FailuresStick t) (htu : t.FailuresStick u) :
    s.FailuresStick u := by
  obtain ⟨new, hnew, hs⟩ := hst
  obtain ⟨more, hmore, ht⟩ := htu
  refine ⟨new ++ more, by rw [hmore, hnew, List.append_assoc], fun hu => ?_⟩
  obtain ⟨ht0, hmoreOk⟩ := ht hu
  obtain ⟨hs0, hnewOk⟩ := hs ht0
  exact ⟨hs0, List.forall_mem_append.2 ⟨hnewOk, hmoreOk⟩⟩

/-- A failure leaves its own sticky bit, so `STICKY` is not 0 after it. -/
theorem failuresStick_complete_failure (s : State) (f : Failure) :
    s.FailuresStick (s.complete (.failure f) 0) := by
  refine ⟨_, complete_responses _ _ _, fun h => ?_⟩
  have hbit : stickyBit f = 0 := (BitVec.or_eq_zero_iff.1 h).2
  exact absurd (getLsbD_stickyBit f) (by simp [hbit])

/-- A success that is no CSRW to `STATUS` keeps `STICKY` and answers `OK`. -/
theorem Effect.failuresStick {s d : State} {i : Instr} {data : Word} (he : Effect s i d data)
    (hi : ∀ rs, i ≠ .csrw 0x00 rs) : s.FailuresStick (d.complete .ok data) := by
  refine ⟨_, (complete_responses _ _ _).trans (by rw [he.responses_eq]), fun h => ⟨?_, by simp⟩⟩
  rw [← he.sticky_eq hi]
  exact h

/-- A word that clears no sticky bit is no CSRW to `STATUS`. -/
theorem ne_csrw_status_of_not_clearsSticky {w : Word} {i : Instr} (hw : (Input.command w).clearsSticky = false)
    (hi : decode w = .ok i) (rs : XReg) : i ≠ .csrw 0x00 rs := by
  rintro rfl
  simp [Input.clearsSticky, hi] at hw

theorem execWord_failuresStick {w : Word} {s t : State} (hw : (Input.command w).clearsSticky = false)
    (h : execWord w s = .next t) : s.FailuresStick t := by
  obtain ⟨f, -, rfl⟩ | ⟨i, d, data, hi, he, rfl⟩ := execWord_cases h
  · exact failuresStick_complete_failure s f
  · exact he.failuresStick (ne_csrw_status_of_not_clearsSticky hw hi)

/-- A step leaves no failure behind unseen, unless the input it takes clears sticky bits. -/
theorem step_failuresStick {s t : State} (h : step s = .next t) (hs : ∀ e ∈ s.inputs, e.clearsSticky = false) :
    s.FailuresStick t := by
  match hin : s.inputs with
  | [] => rw [step_nil hin] at h; cases h; exact .refl s
  | .reset :: rest => simp [hin, Input.clearsSticky] at hs
  | .command w :: rest =>
    rw [step_command hin] at h
    exact execWord_failuresStick (s := { s with inputs := rest }) (hs _ (by simp [hin])) h

/-- A step presents nothing new. -/
theorem step_inputs_subset {s t : State} (h : step s = .next t) : t.inputs ⊆ s.inputs := by
  cases hin : s.inputs with
  | nil => rw [step_nil hin] at h; cases h; simp [hin]
  | cons e rest =>
    obtain ⟨u, -, hu, hrest, -⟩ := step_takes_input hin
    cases h.symm.trans hu
    simp [hrest]

theorem run_failuresStick : ∀ (n : Nat) {s t : State}, Sys2Proof.core.run n s = .next t →
    (∀ e ∈ s.inputs, e.clearsSticky = false) → s.FailuresStick t := by
  intro n
  induction n with
  | zero => intro s t h _; cases h; exact .refl s
  | succ n ih =>
    intro s t h hs
    obtain ⟨u, hu⟩ := step_answers s
    rw [run_succ hu] at h
    exact (step_failuresStick hu hs).trans (ih h fun e he => hs e (step_inputs_subset hu he))

/-- Settles O14: along the run no failure is lost, so `STICKY` = 0 at its end speaks of every response. -/
theorem stickyZeroMeansNoFailure : Obligations.StickyZeroMeansNoFailure := by
  intro n s t h hs hzero
  obtain ⟨new, hnew, hok⟩ := run_failuresStick n h hs
  rw [hnew, List.drop_left]
  exact (hok hzero).2

end Sys2Proof.Machine
